-- ==== Sys2Proof/Word.lean ====
section
/-! DEFINITION. The machine word. ICC_HSRE and every general register are 32 bits wide (R8, R39).

A one-bit field, input or parameter is a `Bool`; `true` is the spec's 1. Bit `i` of a word `w` is `w[i]`, and bit 0
is the least significant bit (00_scope.md section 5.1; notes/assumptions/3.md). -/

namespace Sys2Proof

/-- A 32-bit value: a general register, a value moved by `MRC` or `MCR`, an instruction word. -/
abbrev Word := BitVec 32

end Sys2Proof
end

