-- ==== Sys2Proof/Config.lean ====
section
/-! DEFINITION. What an implementation fixes (00_scope.md section 4), and the free values.

The parameters are plain data and stand in `State.params`, which no step changes: `exec` takes nothing but an
instruction and a state, so a statement about every state is a statement about every implementation
(notes/assumptions/1.md). -/

namespace Sys2Proof

/-- What `ICC_MSRE.Enable` reads when there is no EL3 using AArch32 (R78, D16). -/
inductive MsreEnableParam where
  | zero | one
  /-- A fresh draw at each access. -/
  | any
deriving DecidableEq, Repr

/-- The implementation parameters `P` of 00_scope.md section 4, in the spec's order. -/
structure Params where
  /-- "EL2 is capable of using AArch32" (R3). -/
  el2AArch32Capable : Bool
  /-- "FEAT_GICv3 is implemented" (R3). -/
  featGICv3 : Bool
  /-- "EL2 is implemented" (R3). -/
  haveEL2 : Bool
  /-- "EL3 is implemented"; `HaveEL(EL3)` (R3, R16, R17, R21, R22, R29, R30, R78). -/
  haveEL3 : Bool
  /-- Only a System register interface to the GIC CPU interface is supported (R28). -/
  gicSysregOnly : Bool
  /-- The permission to make Enable RAO/WI is taken (R12). -/
  enableRaoWiWithSre : Bool
  /-- The system supports IRQ bypass (R18). -/
  irqBypassSupported : Bool
  /-- The system supports FIQ bypass (R23). -/
  fiqBypassSupported : Bool
  /-- `IMPLEMENTATION_DEFINED "EL3 trap priority when SDD == '1'"` (R78; R80 shows it decides nothing). -/
  impdefEl3TrapPrioritySdd : Bool
  /-- Memory-mapped and System registers share storage (R38). -/
  sharedMmioSysreg : Bool
  /-- Which of the bits 31:4 have storage; bit `i` of the mask is register bit `i + 4` (R10, D11). -/
  res0WritableMask : BitVec 28
  /-- What `ICC_MSRE.Enable` reads without an EL3 using AArch32 (R78, D16). -/
  msreEnableWhenNoAArch32EL3 : MsreEnableParam
  /-- Memory-mapped use can disturb SRE too (R38, D20). -/
  mmioHavocIncludesSre : Bool
deriving DecidableEq, Repr

/-- The plain set of 95_test_vectors.md, with the two sharing parameters as D20 recommends
(notes/assumptions/2.md). -/
def Params.plain : Params where
  el2AArch32Capable := true
  featGICv3 := true
  haveEL2 := true
  haveEL3 := false
  gicSysregOnly := false
  enableRaoWiWithSre := false
  irqBypassSupported := true
  fiqBypassSupported := true
  impdefEl3TrapPrioritySdd := false
  sharedMmioSysreg := true
  res0WritableMask := 0
  msreEnableWhenNoAArch32EL3 := .one
  mmioHavocIncludesSre := true

/-- FREE VALUE. The 32 bits that the `n`-th access draws for the cells it reads while they are unknown: bit `i` is
the `draw(1)` of register bit `i` (R10, R14, R34, R38, D12; notes/assumptions/4.md). No body: nothing can be proved
of its value. `State.draws` supplies `n`. -/
opaque Config.drawView : Nat → Word

/-- FREE VALUE. The `draw(1)` that `MSRE_ENABLE_WHEN_NO_AARCH32_EL3 = any` gives the `n`-th access
(R78, D16; notes/assumptions/4.md). -/
opaque Config.drawMsreEnable : Nat → Bool

end Sys2Proof
end

