-- ==== Sys2Proof/Syntax.lean ====
section
/-! DEFINITION. The two access instructions in both instruction sets, one constructor per row of
spec/opcode_table.json, and what a decoder says of a word it refuses. -/

namespace Sys2Proof

/-- The two AArch32 instruction sets (R68 to R70). -/
inductive InstrSet where
  | a32 | t32
deriving DecidableEq, Repr

/-- The direction of an access: `MRC` reads ICC_HSRE, `MCR` writes it (R64). -/
inductive Direction where
  | read | write
deriving DecidableEq, Repr

/-- A general register number `t`, 0 to 14 (R39). -/
abbrev Reg := Fin 15

/-- A location of the System register encoding space: a 5-tuple of widths 4, 3, 4, 4 and 3 (R52). -/
structure SysRegLoc where
  coproc : BitVec 4
  opc1 : BitVec 3
  crn : BitVec 4
  crm : BitVec 4
  opc2 : BitVec 3
deriving DecidableEq, Repr

/-- Where ICC_HSRE is (R64). -/
def SysRegLoc.iccHsre : SysRegLoc where
  coproc := 0b1111
  opc1 := 0b100
  crn := 0b1100
  crm := 0b1001
  opc2 := 0b101

/-- The instructions, one constructor per row of spec/opcode_table.json; the argument is `<Rt>`. -/
inductive Instr where
  /-- `MRC_ICC_HSRE_A32` (R82, R68). -/
  | mrcA32 (rt : Reg)
  /-- `MCR_ICC_HSRE_A32` (R83, R68). -/
  | mcrA32 (rt : Reg)
  /-- `MRC_ICC_HSRE_T32` (R82, R69). -/
  | mrcT32 (rt : Reg)
  /-- `MCR_ICC_HSRE_T32` (R83, R69). -/
  | mcrT32 (rt : Reg)
deriving DecidableEq, Repr

/-- The instruction set an instruction belongs to. -/
def Instr.set : Instr → InstrSet
  | .mrcA32 _ => .a32
  | .mcrA32 _ => .a32
  | .mrcT32 _ => .t32
  | .mcrT32 _ => .t32

/-- Whether an instruction reads or writes ICC_HSRE. -/
def Instr.dir : Instr → Direction
  | .mrcA32 _ => .read
  | .mcrA32 _ => .write
  | .mrcT32 _ => .read
  | .mcrT32 _ => .write

/-- The operand `<Rt>`. -/
def Instr.rt : Instr → Reg
  | .mrcA32 t => t
  | .mcrA32 t => t
  | .mrcT32 t => t
  | .mcrT32 t => t

/-- Why the decoder gives a word no meaning (R71 to R73). A refusal is the model's, not a claim that the chip
faults. -/
inductive DecodeRefusal where
  /-- "not ICC_HSRE": the word matches none of the four rows (R73, D31). Raised by the decoder; safe. -/
  | notIccHsre
  /-- A condition other than always, or a place inside a T32 conditional block (R72, D4). Raised by the decoder;
  safe. -/
  | conditional
  /-- A refused `Rt`: 15 in either set, 13 in T32 (R71, D24). Raised by the decoder, and by the meanings of the T32
  rows on 13; safe. -/
  | rtNotAdmitted (rt : BitVec 4)
deriving DecidableEq, Repr

end Sys2Proof
end

