-- ==== Sys2Proof/Machine/State.lean ====
section
/-! DEFINITION. The state of the machine, plain data: the stored state `S` of ICC_HSRE (R33), the inputs `E`
(10_state.md section 6), the two shared cells of ICC_MSRE (R46), the general registers and the program counter
(R39, R40), the program text (R61), the environment's turns (R110), and the machine right after reset. -/

namespace Sys2Proof.Machine

/-- The Exception levels, the values of `PSTATE.EL` (R7, R42). -/
inductive EL where
  | el0 | el1 | el2 | el3
deriving DecidableEq, Repr

/-- A stored one-bit cell: it holds a bit, or it has been reset (or disturbed) and not yet written (R33). -/
inductive Cell where
  | unknown
  | known (b : Bool)
deriving DecidableEq, Repr

/-- The stored state `S` of ICC_HSRE (R33). `res[i]` is the spec's `S.res[i + 4]`. Which cells exist depends on the
parameters; a cell that does not exist is neither read nor written, and holds 0 (notes/assumptions/5.md). -/
structure Hsre where
  sre : Cell
  dfb : Cell
  dib : Cell
  enable : Cell
  res : Vector Cell 28
deriving DecidableEq, Repr

/-- What a read of ICC_HSRE would return, field by field, before any unknown cell is drawn (R34). -/
structure View where
  sre : Cell
  dfb : Cell
  dib : Cell
  enable : Cell
  res : Vector Cell 28
deriving DecidableEq, Repr

/-- The inputs `E` that the rules read and do not own (R42 to R47, R49). -/
structure Inputs where
  /-- `PSTATE.EL` (R42). -/
  el : EL
  /-- `EL2Enabled()` (R49). -/
  el2Enabled : Bool
  /-- `ELUsingAArch32(EL2)` (R49). -/
  el2IsAArch32 : Bool
  /-- `ELUsingAArch32(EL3)` (R49). -/
  el3IsAArch32 : Bool
  /-- `HSTR.T12` (R43). -/
  hstrT12 : Bool
  /-- `HSTR_EL2.T12` (R43). -/
  hstrEl2T12 : Bool
  /-- `Halted()` (R44). -/
  halted : Bool
  /-- `EDSCR.SDD` (R44). -/
  edscrSdd : Bool
  /-- `ICC_SRE_EL3.Enable` (R45). -/
  iccSreEl3Enable : Bool
  /-- `ICC_SRE_EL3.SRE` (R45). -/
  iccSreEl3Sre : Bool
  /-- `ICC_MSRE.Enable` (R46). -/
  iccMsreEnable : Bool
  /-- `ICC_MSRE.SRE` (R46). -/
  iccMsreSre : Bool
  /-- `GICD_CTLR.DS` (R47). -/
  gicdCtlrDs : Bool
deriving DecidableEq, Repr

/-- What a Warm reset leaves unconstrained (R101, R103): the surrounding machine supplies it with the reset. -/
structure ResetValues where
  inputs : Inputs
  regs : Vector Word 15
  pc : BitVec 32
  instrSet : InstrSet
  inCondBlock : Bool
deriving DecidableEq, Repr

/-- The values EL3 software gives its registers' fields in one `El3WritesMsre` (R110). -/
structure El3Values where
  msreDib : Bool
  msreDfb : Bool
  iccMsreEnable : Bool
  iccMsreSre : Bool
  iccSreEl3Enable : Bool
  iccSreEl3Sre : Bool
deriving DecidableEq, Repr

/-- The inputs one `ChangeOfLevelOrDebug` sets (R110). -/
structure LevelValues where
  el : EL
  el2Enabled : Bool
  el2IsAArch32 : Bool
  el3IsAArch32 : Bool
  hstrT12 : Bool
  hstrEl2T12 : Bool
  halted : Bool
  edscrSdd : Bool
deriving DecidableEq, Repr

/-- The environment's actions: these, and only these (R110). -/
inductive EnvAction where
  | warmReset (r : ResetValues)
  | mmioUse
  | el3WritesMsre (v : El3Values)
  | aarch64WriteSreEl2 (v : Word)
  | distributorWritesDS (ds : Bool)
  | changeOfLevelOrDebug (v : LevelValues)
deriving DecidableEq, Repr

/-- Whose turn a step is: the PE's, the environment's (R110), or the surrounding machine's context synchronisation
event, which ends the window of R107. -/
inductive Turn where
  | pe
  | env (a : EnvAction)
  | contextSync
deriving DecidableEq, Repr

/-- The access that an exception outcome records (R93): its direction and its operand `t`. -/
structure Access where
  dir : Direction
  rt : Reg
deriving DecidableEq, Repr

/-- The exception outcomes of an access: terminal, no successor state (R85, R93, D15). Each is raised by
`takeException` for an access that the check of R75 to R79 does not allow. All are safe: the run stops where the chip
goes on to a handler of which the spec gives nothing. `number` is the class the trap call is given (R90). -/
inductive Fault where
  /-- `Undefined` (R86): the register is absent, or the current level may not reach it. Safe. -/
  | undefined (a : Access)
  /-- `TrapToEL2_AArch64` (R87): an EL1 access with `HSTR_EL2.T12` 1. Safe. -/
  | trapToEL2AArch64 (number : BitVec 6) (a : Access)
  /-- `HypTrap` (R88): an EL1 access with `HSTR.T12` 1 under an EL2 using AArch32. Safe. -/
  | hypTrap (number : BitVec 6) (a : Access)
  /-- `TrapToEL3_AArch64` (R89): an EL2 access with `ICC_SRE_EL3.Enable` 0 under an EL3 using AArch64. Safe. -/
  | trapToEL3AArch64 (number : BitVec 6) (a : Access)
deriving DecidableEq, Repr

/-- The steps the model gives no successor and no exception: its own refusals, not things the chip does (R85). -/
inductive Refusal where
  /-- An instruction without a meaning. No arm of `exec` raises it. Safe. -/
  | notModelled (mnemonic : String)
  /-- The word at the program counter, or a T32 form with `Rt = 13`, is refused (R71 to R73). Raised by the decoder
  and by the T32 meanings. Safe. -/
  | decode (r : DecodeRefusal)
  /-- The program text has no instruction at the program counter (R61). Raised by `fetch`. Safe. -/
  | noProgramText
  /-- The state breaks the launch premise of R6. Raised by `fetch`, before every instruction. Safe. -/
  | launchPremise
  /-- `Unpredictable_SRE_1_to_0` (R27, R106): a write that changes SRE from 1 to 0. Raised by the two writes and by
  `AArch64WriteSreEl2`. Safe. -/
  | unpredictableSre1To0
  /-- An environment action in a state where it is not enabled (R38, R110). Raised by `envStep`. Safe. -/
  | actionNotEnabled
  /-- EL3 software takes one of its SRE fields from 1 to 0, which the spec assumes it never does (R110, D22). Raised
  by `envStep`. Safe as a stop; that the chip's environment never does it is an assumption
  (notes/assumptions/12.md). -/
  | environmentAssumption
deriving DecidableEq, Repr

/-- The machine. -/
structure State where
  /-- The parameters `P`; no step changes them (00_scope.md section 4). -/
  params : Params
  /-- The inputs `E`. -/
  inputs : Inputs
  /-- The stored state `S` of ICC_HSRE, which is also ICC_SRE_EL2's (R32, R33). -/
  hsre : Hsre
  /-- The shared cell `MSRE_DIB` (R46). -/
  msreDib : Bool
  /-- The shared cell `MSRE_DFB` (R46). -/
  msreDfb : Bool
  /-- The general registers `R[0]` to `R[14]` (R39). -/
  regs : Vector Word 15
  /-- The program counter (R40). -/
  pc : BitVec 32
  /-- The instruction-set state, which the decoder is given (R70). -/
  instrSet : InstrSet
  /-- Whether the next T32 instruction stands inside a conditional block (R72). -/
  inCondBlock : Bool
  /-- The program text: an address and the 32-bit instruction there, addresses strictly rising (R61). No step
  changes it. -/
  program : List (Nat × Word)
  /-- Whose turns the next steps are; when it is empty every step is the PE's (R110). -/
  schedule : List Turn
  /-- The views before the writes that are not yet context synchronised, newest first (R107). -/
  window : List View
  /-- The model's own counter: how many free values have been supplied (notes/assumptions/4.md). -/
  draws : Nat
deriving DecidableEq, Repr

/-- The inputs at reset: the PE at EL2 using AArch32, every tested bit 0 (notes/assumptions/6.md). -/
def Inputs.plain : Inputs where
  el := .el2
  el2Enabled := true
  el2IsAArch32 := true
  el3IsAArch32 := false
  hstrT12 := false
  hstrEl2T12 := false
  halted := false
  edscrSdd := false
  iccSreEl3Enable := false
  iccSreEl3Sre := false
  iccMsreEnable := false
  iccMsreSre := false
  gicdCtlrDs := false

/-- What the surrounding machine supplies with the reset of `State.reset` (notes/assumptions/6.md, 7.md). -/
def ResetValues.plain : ResetValues where
  inputs := Inputs.plain
  regs := Vector.replicate 15 0
  pc := 0
  instrSet := .a32
  inCondBlock := false

/-- A cell right after a Warm reset: its reset content if it exists, 0 if it does not (R33, R101). -/
def Cell.atReset (exists_ : Bool) (content : Cell) : Cell :=
  if exists_ then content else .known false

/-- The stored state right after a Warm reset, for an implementation `p` (R14, R19, R24, R31, R10, R33): SRE, DFB
and DIB 0, Enable and the writable reserved bits unknown. -/
def Hsre.reset (p : Params) : Hsre where
  sre := .known false
  dfb := .known false
  dib := .known false
  enable := Cell.atReset (!(p.gicSysregOnly && p.enableRaoWiWithSre)) .unknown
  res := Vector.ofFn fun i => Cell.atReset p.res0WritableMask[i] .unknown

/-- The machine right after a Warm reset, for an implementation `p` and the values `r` that the surrounding machine
supplies (R101, R103); no program, no environment turn, no unsynchronised write. -/
def State.resetOf (p : Params) (r : ResetValues) : State where
  params := p
  inputs := r.inputs
  hsre := Hsre.reset p
  msreDib := false
  msreDfb := false
  regs := r.regs
  pc := r.pc
  instrSet := r.instrSet
  inCondBlock := r.inCondBlock
  program := []
  schedule := []
  window := []
  draws := 0

/-- The machine right after reset (R50, R101). -/
def State.reset : State := State.resetOf Params.plain ResetValues.plain

end Sys2Proof.Machine
end

