-- ==== Sys2Proof/WellFormed.lean ====
section
/-! DEFINITION. Which instructions have an encoding the decoder admits. -/

namespace Sys2Proof

/-- The operand is admitted (R71): any of 0 to 14 in A32, any of these but 13 in T32. (15 is no `Reg` at all.) -/
def Instr.wellFormed : Instr → Bool
  | .mrcA32 _ => true
  | .mcrA32 _ => true
  | .mrcT32 t => t != 13
  | .mcrT32 t => t != 13

/-- `Instr.wellFormed` as a proposition. -/
abbrev Instr.WellFormed (i : Instr) : Prop := i.wellFormed = true

end Sys2Proof
end

