-- ==== Sys2Proof/Machine/Ops.lean ====
section
/-! DEFINITION. The named operations: what ICC_HSRE reads as and what a write changes (R33 to R35), the access check
(R75 to R79), taking an exception (R93), Warm reset (R101), memory-mapped use (R38), and the program text. -/

namespace Sys2Proof.Machine

/-! ### The implementation and its clauses -/

/-- The register is present (R3). -/
def present (p : Params) : Bool := p.el2AArch32Capable && p.featGICv3 && (p.haveEL2 || p.haveEL3)

/-- SRE is RAO/WI (R28). -/
def sreRaoWi (p : Params) : Bool := p.gicSysregOnly

/-- SRE is RAZ/WI: the conditions of R29 and R30. -/
def sreRazWi (p : Params) (e : Inputs) : Bool :=
  p.haveEL3 && ((!e.el3IsAArch32 && !e.iccSreEl3Sre) || (e.el3IsAArch32 && !e.iccMsreSre))

/-- Enable is RAO/WI (R12). -/
def enableRaoWi (p : Params) : Bool := p.gicSysregOnly && p.enableRaoWiWithSre

/-- The launch premise of R6 holds: no clause of the page gives a bit two values. -/
def launchPremise (p : Params) (e : Inputs) (msreDib msreDfb : Bool) : Bool :=
  !(p.gicSysregOnly && sreRazWi p e)
    && !(!p.irqBypassSupported && p.haveEL3 && !msreDib)
    && !(!p.fiqBypassSupported && p.haveEL3 && !msreDfb)

/-! ### Which cells exist (R33) -/

/-- `S.SRE` exists. -/
def sreExists (p : Params) : Bool := !p.gicSysregOnly

/-- `S.DFB` exists. -/
def dfbExists (p : Params) : Bool := p.fiqBypassSupported && !p.haveEL3

/-- `S.DIB` exists. -/
def dibExists (p : Params) : Bool := p.irqBypassSupported && !p.haveEL3

/-- `S.Enable` exists. -/
def enableExists (p : Params) : Bool := !enableRaoWi p

/-- A cell is stored to if it exists and keeps its content otherwise. -/
def Cell.store (c : Cell) (exists_ : Bool) (content : Cell) : Cell := if exists_ then content else c

/-- The bit a cell reads as, given the bit `d` drawn for it in case it is unknown (R14, D12). -/
def Cell.resolve (c : Cell) (d : Bool) : Bool :=
  match c with
  | .unknown => d
  | .known b => b

/-! ### The read view (R34) -/

/-- The fields as a read finds them (R34): RAO/WI before RAZ/WI, RAO/WI before the aliases of ICC_MSRE. -/
def view (p : Params) (e : Inputs) (h : Hsre) (msreDib msreDfb : Bool) : View where
  sre := if sreRaoWi p then .known true else if sreRazWi p e then .known false else h.sre
  dfb := if !p.fiqBypassSupported then .known true else if p.haveEL3 then .known msreDfb else h.dfb
  dib := if !p.irqBypassSupported then .known true else if p.haveEL3 then .known msreDib else h.dib
  enable := if enableRaoWi p then .known true else h.enable
  res := Vector.ofFn fun i => if p.res0WritableMask[i] then h.res[i] else .known false

/-- The 32-bit value of a view, `hi[31:4] : en : dib : dfb : sre`, with bit `i` of `d` drawn for bit `i` where its
cell is unknown (R9, R34). -/
def View.word (v : View) (d : Word) : Word :=
  ((BitVec.ofFnLE fun i : Fin 28 => v.res[i].resolve (d.getLsbD (i.val + 4)))
    ++ BitVec.ofBool (v.enable.resolve d[3])
    ++ BitVec.ofBool (v.dib.resolve d[2])
    ++ BitVec.ofBool (v.dfb.resolve d[1])
    ++ BitVec.ofBool (v.sre.resolve d[0])).cast (by rfl)

/-- The current view. -/
def State.view (s : State) : View := Machine.view s.params s.inputs s.hsre s.msreDib s.msreDfb

/-- `ReadView(S, E, P)` (R34): the value a read of ICC_HSRE returns now. -/
def State.readView (s : State) : Word := s.view.word (Config.drawView s.draws)

/-- `ReadView(S, E, P)[0]`, the SRE bit as read, without the other bits. -/
def State.sreRead (s : State) : Bool := s.view.sre.resolve (Config.drawView s.draws)[0]

/-! ### The write (R35) -/

/-- The stored cells after a write of `v`: only the cells that exist and are not under RAZ/WI (R35). -/
def Hsre.write (p : Params) (e : Inputs) (h : Hsre) (v : Word) : Hsre where
  sre := h.sre.store (!sreRaoWi p && !sreRazWi p e) (.known v[0])
  dfb := h.dfb.store (dfbExists p) (.known v[1])
  dib := h.dib.store (dibExists p) (.known v[2])
  enable := h.enable.store (enableExists p) (.known v[3])
  res := Vector.ofFn fun i => h.res[i].store p.res0WritableMask[i] (.known (v.getLsbD (i.val + 4)))

/-- ICC_MSRE's bit is a read/write alias of ICC_HSRE's (R17, R22): EL3 implemented, `GICD_CTLR.DS` 1, and bypass
supported (R18, R23). -/
def aliasWritable (p : Params) (e : Inputs) (bypassSupported : Bool) : Bool :=
  bypassSupported && p.haveEL3 && e.gicdCtlrDs

/-- The field updates of one write, all together (R35). -/
def State.applyWrite (s : State) (v : Word) : State :=
  { s with
    hsre := s.hsre.write s.params s.inputs v
    msreDib := if aliasWritable s.params s.inputs s.params.irqBypassSupported then v[2] else s.msreDib
    msreDfb := if aliasWritable s.params s.inputs s.params.fiqBypassSupported then v[1] else s.msreDfb }

/-- `WriteUpdate(S, E, P, v)` (R35): `none` is `Unpredictable_SRE_1_to_0` (R27). The view before the write is kept for
the window of R107. -/
def State.writeUpdate (s : State) (v : Word) : Option State :=
  if s.sreRead && !(s.applyWrite v).sreRead then none
  else some { s.applyWrite v with window := s.view :: s.window }

/-! ### The access check (R75 to R79) -/

/-- An exception outcome, before the access it is of is recorded (R85). -/
inductive Exc where
  | undefined
  | trapToEL2AArch64 (number : BitVec 6)
  | hypTrap (number : BitVec 6)
  | trapToEL3AArch64 (number : BitVec 6)
deriving DecidableEq, Repr

/-- What `AccessCheck` returns. -/
inductive CheckOutcome where
  | allow
  | raise (x : Exc)
deriving DecidableEq, Repr

/-- The number every trap call is given (R90). -/
def trapNumber : BitVec 6 := 0x03

/-- The check at EL1 (R77). -/
def checkEL1 (e : Inputs) : CheckOutcome :=
  if e.el2Enabled && !e.el2IsAArch32 && e.hstrEl2T12 then .raise (.trapToEL2AArch64 trapNumber)
  else if e.el2Enabled && e.el2IsAArch32 && e.hstrT12 then .raise (.hypTrap trapNumber)
  else .raise .undefined

/-- `MSRE_Enable(E, P)` (R78), with `d` the bit drawn in case the parameter is `any`. -/
def msreEnable (p : Params) (e : Inputs) (d : Bool) : Bool :=
  if p.haveEL3 && e.el3IsAArch32 then e.iccMsreEnable
  else
    match p.msreEnableWhenNoAArch32EL3 with
    | .zero => false
    | .one => true
    | .any => d

/-- `A` of R78: an EL3 using AArch64 has not enabled the access. -/
def el3Forbids (p : Params) (e : Inputs) : Bool := p.haveEL3 && !e.el3IsAArch32 && !e.iccSreEl3Enable

/-- The check at EL2 (R78), the IMPLEMENTATION_DEFINED Boolean and all. -/
def checkEL2 (p : Params) (e : Inputs) (d : Bool) : CheckOutcome :=
  if e.halted && p.haveEL3 && e.edscrSdd && p.impdefEl3TrapPrioritySdd && el3Forbids p e then .raise .undefined
  else if el3Forbids p e then
    if e.halted && e.edscrSdd then .raise .undefined else .raise (.trapToEL3AArch64 trapNumber)
  else if !msreEnable p e d then .raise .undefined
  else .allow

/-- The check at EL3 (R79). -/
def checkEL3 (e : Inputs) : CheckOutcome := if !e.el2Enabled then .raise .undefined else .allow

/-- `AccessCheck(E, P)` (R74, R75): presence first (R4), then the current level. -/
def accessCheck (p : Params) (e : Inputs) (d : Bool) : CheckOutcome :=
  if !present p then .raise .undefined
  else
    match e.el with
    | .el0 => .raise .undefined
    | .el1 => checkEL1 e
    | .el2 => checkEL2 p e d
    | .el3 => checkEL3 e

/-- The check in a state. -/
def State.check (s : State) : CheckOutcome :=
  accessCheck s.params s.inputs (Config.drawMsreEnable s.draws)

/-! ### Taking an exception (R93); there is no return from one (R94) -/

/-- TAKING AN EXCEPTION: the run ends in the outcome, which records the access; the state has no successor (R86 to
R89, R93). The spec gives no saved register, no vector and no return (R93, R94). -/
def takeException (x : Exc) (a : Access) : Host.Outcome State Fault Refusal :=
  match x with
  | .undefined => .fault (.undefined a)
  | .trapToEL2AArch64 n => .fault (.trapToEL2AArch64 n a)
  | .hypTrap n => .fault (.hypTrap n a)
  | .trapToEL3AArch64 n => .fault (.trapToEL3AArch64 n a)

/-- The Exception level an outcome is taken to, where the page names one (R87 to R89). -/
def Fault.target : Fault → Option EL
  | .undefined _ => none
  | .trapToEL2AArch64 _ _ => some .el2
  | .hypTrap _ _ => some .el2
  | .trapToEL3AArch64 _ _ => some .el3

/-- The access an outcome records (R93). -/
def Fault.access : Fault → Access
  | .undefined a => a
  | .trapToEL2AArch64 _ a => a
  | .hypTrap _ a => a
  | .trapToEL3AArch64 _ a => a

/-- The number an outcome carries, where there is one (R90, R93). -/
def Fault.number : Fault → Option (BitVec 6)
  | .undefined _ => none
  | .trapToEL2AArch64 n _ => some n
  | .hypTrap n _ => some n
  | .trapToEL3AArch64 n _ => some n

/-! ### Completion, reset, memory-mapped use -/

/-- An access uses up one free value of each kind. -/
def State.drawn (s : State) : State := { s with draws := s.draws + 1 }

/-- The outcome `Completed` (R40, R85): the program counter moves past the four bytes of the instruction. -/
def State.completed (s : State) : State := { s.drawn with pc := s.pc + 4 }

/-- The stored cells at a Warm reset (R101). -/
def Hsre.warmReset (p : Params) (h : Hsre) : Hsre where
  sre := h.sre.store (sreExists p) (.known false)
  dfb := h.dfb.store (dfbExists p) (.known false)
  dib := h.dib.store (dibExists p) (.known false)
  enable := h.enable.store (enableExists p) .unknown
  res := Vector.ofFn fun i => h.res[i].store p.res0WritableMask[i] .unknown

/-- Warm reset (R101): the stored cells, the shared cells when EL3 is implemented, and the values `r` for what the
page leaves unconstrained. -/
def State.warmReset (s : State) (r : ResetValues) : State :=
  { s with
    hsre := s.hsre.warmReset s.params
    msreDib := if s.params.haveEL3 then false else s.msreDib
    msreDfb := if s.params.haveEL3 then false else s.msreDfb
    inputs := r.inputs
    regs := r.regs
    pc := r.pc
    instrSet := r.instrSet
    inCondBlock := r.inCondBlock }

/-- The stored cells after an event that leaves the existing ones unknown; SRE only where `sreToo` (R38, R102). -/
def Hsre.havoc (p : Params) (sreToo : Bool) (h : Hsre) : Hsre where
  sre := h.sre.store (sreToo && sreExists p) .unknown
  dfb := h.dfb.store (dfbExists p) .unknown
  dib := h.dib.store (dibExists p) .unknown
  enable := h.enable.store (enableExists p) .unknown
  res := Vector.ofFn fun i => h.res[i].store p.res0WritableMask[i] .unknown

/-- Any reset other than a Warm reset: every stored cell unknown, then the Warm reset (R102). -/
def State.otherReset (s : State) (r : ResetValues) : State :=
  State.warmReset { s with hsre := s.hsre.havoc s.params true } r

/-- The state after memory-mapped use, where that is enabled (R38). -/
def State.mmioUsed (s : State) : State :=
  { s.drawn with hsre := s.hsre.havoc s.params s.params.mmioHavocIncludesSre }

/-! ### The program text (R61) -/

/-- The instruction at an address, if the text has one there. -/
def Program.lookup : List (Nat × Word) → Nat → Option Word
  | [], _ => none
  | (b, w) :: rest, a => if a = b then some w else Program.lookup rest a

/-- Place an instruction at an address, in the rising order. -/
def Program.place : List (Nat × Word) → Nat → Word → List (Nat × Word)
  | [], a, w => [(a, w)]
  | (b, x) :: rest, a, w =>
    if a < b then (a, w) :: (b, x) :: rest
    else if a = b then (a, w) :: rest
    else (b, x) :: Program.place rest a w

/-- The canonical form: addresses strictly rising. -/
def Program.wf : List (Nat × Word) → Bool
  | [] => true
  | (a, _) :: rest => (rest.all fun c => a < c.1) && Program.wf rest

end Sys2Proof.Machine
end

