-- ==== Sys2Proof/Machine/Operands.lean ====
section
/-! DEFINITION. The operand `<Rt>` (R39): the only operand of either instruction, and the only operand form. All 32
bits move, unchanged (R57). There is no memory operand and no address is computed (R51). -/

namespace Sys2Proof.Machine

/-- Read `R[t]`. -/
def State.reg (s : State) (t : Reg) : Word := s.regs[t]

/-- Write `R[t]`. -/
def State.setReg (s : State) (t : Reg) (v : Word) : State := { s with regs := s.regs.set t v }

end Sys2Proof.Machine
end

