-- ==== Sys2Proof/Machine/SystemRegisterAccess.lean ====
section
/-! DEFINITION. The one instruction family: the read and the write of ICC_HSRE (R82, R83). -/

namespace Sys2Proof.Machine

/-- `MRC` read of ICC_HSRE (R82): the check, then `R[t]` receives the read view. -/
def readAccess (rt : Reg) (s : State) : Host.Outcome State Fault Refusal :=
  match s.check with
  | .raise x => takeException x { dir := .read, rt := rt }
  | .allow => .next (s.setReg rt s.readView).completed

/-- `MCR` write of ICC_HSRE (R83): the check, then the register is written from `R[t]`. -/
def writeAccess (rt : Reg) (s : State) : Host.Outcome State Fault Refusal :=
  match s.check with
  | .raise x => takeException x { dir := .write, rt := rt }
  | .allow =>
    match s.writeUpdate (s.reg rt) with
    | none => .refused .unpredictableSre1To0
    | some t => .next t.completed

/-- A T32 access: `Rt = 13` is not admitted (R71). -/
def admittedT32 (rt : Reg) (access : Host.Outcome State Fault Refusal) : Host.Outcome State Fault Refusal :=
  if rt = 13 then .refused (.decode (.rtNotAdmitted 13)) else access

/-- `MRC_ICC_HSRE_A32` (R82). -/
def execMrcA32 (rt : Reg) (s : State) : Host.Outcome State Fault Refusal := readAccess rt s

/-- `MCR_ICC_HSRE_A32` (R83). -/
def execMcrA32 (rt : Reg) (s : State) : Host.Outcome State Fault Refusal := writeAccess rt s

/-- `MRC_ICC_HSRE_T32`: the same semantics as in A32 (R69, R82). -/
def execMrcT32 (rt : Reg) (s : State) : Host.Outcome State Fault Refusal := admittedT32 rt (readAccess rt s)

/-- `MCR_ICC_HSRE_T32`: the same semantics as in A32 (R69, R83). -/
def execMcrT32 (rt : Reg) (s : State) : Host.Outcome State Fault Refusal := admittedT32 rt (writeAccess rt s)

end Sys2Proof.Machine
end

