-- ==== Sys2Proof/Machine/Environment.lean ====
section
/-! DEFINITION. The environment's actions (R110): what else can act on the register between two instructions. -/

namespace Sys2Proof.Machine

/-- `MmioUse` (R38): nothing where storage is not shared; enabled only while SRE reads 0. -/
def mmioUse (s : State) : Host.Outcome State Fault Refusal :=
  if !s.params.sharedMmioSysreg then .next s
  else if s.sreRead then .refused .actionNotEnabled
  else .next s.mmioUsed

/-- EL3's fields after `El3WritesMsre`. -/
def State.withEl3 (s : State) (v : El3Values) : State :=
  { s with
    msreDib := v.msreDib
    msreDfb := v.msreDfb
    inputs :=
      { s.inputs with
        iccMsreEnable := v.iccMsreEnable
        iccMsreSre := v.iccMsreSre
        iccSreEl3Enable := v.iccSreEl3Enable
        iccSreEl3Sre := v.iccSreEl3Sre } }

/-- An SRE field of EL3 would go from 1 to 0 (R110, D22). -/
def clearsEl3Sre (e : Inputs) (v : El3Values) : Bool :=
  (e.iccMsreSre && !v.iccMsreSre) || (e.iccSreEl3Sre && !v.iccSreEl3Sre)

/-- `El3WritesMsre` (R45, R46, R110). -/
def el3WritesMsre (v : El3Values) (s : State) : Host.Outcome State Fault Refusal :=
  if !s.params.haveEL3 then .refused .actionNotEnabled
  else if clearsEl3Sre s.inputs v then .refused .environmentAssumption
  else .next (s.withEl3 v)

/-- `AArch64WriteSreEl2`: a write through the AArch64 name of the same storage (R32, R110). -/
def aarch64WriteSreEl2 (v : Word) (s : State) : Host.Outcome State Fault Refusal :=
  match s.writeUpdate v with
  | none => .refused .unpredictableSre1To0
  | some t => .next t.drawn

/-- The inputs after `ChangeOfLevelOrDebug`. -/
def Inputs.withLevel (e : Inputs) (v : LevelValues) : Inputs :=
  { e with
    el := v.el
    el2Enabled := v.el2Enabled
    el2IsAArch32 := v.el2IsAArch32
    el3IsAArch32 := v.el3IsAArch32
    hstrT12 := v.hstrT12
    hstrEl2T12 := v.hstrEl2T12
    halted := v.halted
    edscrSdd := v.edscrSdd }

/-- One action of the environment (R110). -/
def envStep (a : EnvAction) (s : State) : Host.Outcome State Fault Refusal :=
  match a with
  | .warmReset r => .next (s.warmReset r)
  | .mmioUse => mmioUse s
  | .el3WritesMsre v => el3WritesMsre v s
  | .aarch64WriteSreEl2 v => aarch64WriteSreEl2 v s
  | .distributorWritesDS ds => .next { s with inputs := { s.inputs with gicdCtlrDs := ds } }
  | .changeOfLevelOrDebug v => .next { s with inputs := s.inputs.withLevel v }

/-- The surrounding machine's context synchronisation event: the writes before it are seen (R107). -/
def State.contextSync (s : State) : State := { s with window := [] }

end Sys2Proof.Machine
end

