-- ==== Sys2Proof/Decode.lean ====
section
/-! DEFINITION. Instruction words: the field layouts (R68, R69), the decoder (R70 to R73), the encoder, the
assembler lines of R62 to R67, and the reading of a number as spec/opcode_table.json numbers it. An instruction is a
32-bit number; how bytes in memory form it is outside the spec (R55, D6; notes/assumptions/8.md). -/

namespace Sys2Proof

/-- The fields of a coprocessor register transfer, first field in the most significant place (R68). In a T32
instruction `cond` names the four constant bits 15:12 of the first halfword (R69). -/
structure Fields where
  cond : BitVec 4
  op : BitVec 4
  opc1 : BitVec 3
  l : BitVec 1
  crn : BitVec 4
  rt : BitVec 4
  coproc : BitVec 4
  opc2 : BitVec 3
  one : BitVec 1
  crm : BitVec 4
deriving DecidableEq, Repr

/-- The fields of an A32 word (R68). -/
def Fields.ofA32 (w : Word) : Fields where
  cond := w.extractLsb' 28 4
  op := w.extractLsb' 24 4
  opc1 := w.extractLsb' 21 3
  l := w.extractLsb' 20 1
  crn := w.extractLsb' 16 4
  rt := w.extractLsb' 12 4
  coproc := w.extractLsb' 8 4
  opc2 := w.extractLsb' 5 3
  one := w.extractLsb' 4 1
  crm := w.extractLsb' 0 4

/-- The fields of a T32 instruction's two halfwords (R69). -/
def Fields.ofT32 (first second : BitVec 16) : Fields where
  cond := first.extractLsb' 12 4
  op := first.extractLsb' 8 4
  opc1 := first.extractLsb' 5 3
  l := first.extractLsb' 4 1
  crn := first.extractLsb' 0 4
  rt := second.extractLsb' 12 4
  coproc := second.extractLsb' 8 4
  opc2 := second.extractLsb' 5 3
  one := second.extractLsb' 4 1
  crm := second.extractLsb' 0 4

/-- The A32 word of some fields (R67, R68): each placed unchanged. -/
def Fields.toA32 (f : Fields) : Word :=
  (f.cond ++ f.op ++ f.opc1 ++ f.l ++ f.crn ++ f.rt ++ f.coproc ++ f.opc2 ++ f.one ++ f.crm).cast (by rfl)

/-- The first halfword of some fields (R67, R69). -/
def Fields.firstT32 (f : Fields) : BitVec 16 :=
  (f.cond ++ f.op ++ f.opc1 ++ f.l ++ f.crn).cast (by rfl)

/-- The second halfword of some fields (R67, R69). -/
def Fields.secondT32 (f : Fields) : BitVec 16 :=
  (f.rt ++ f.coproc ++ f.opc2 ++ f.one ++ f.crm).cast (by rfl)

/-- The 32-bit number of a T32 instruction: its first halfword in bits 31:16 (R69). -/
def Fields.toT32 (f : Fields) : Word := (f.firstT32 ++ f.secondT32).cast (by rfl)

/-- The location the fields name (R52). -/
def Fields.loc (f : Fields) : SysRegLoc where
  coproc := f.coproc
  opc1 := f.opc1
  crn := f.crn
  crm := f.crm
  opc2 := f.opc2

/-- The constant bits of `MRC` and `MCR` and the five values of ICC_HSRE are there (R64, R68, R69). -/
def Fields.namesIccHsre (f : Fields) : Bool :=
  f.op == 0b1110 && f.one == 1 && f.loc == SysRegLoc.iccHsre

/-- The general register a 4-bit number names, if it is one of the fifteen (R39). -/
def Reg.ofBits (b : BitVec 4) : Option Reg :=
  if h : b.toNat < 15 then some ⟨b.toNat, h⟩ else none

/-- The 4-bit number of a general register. -/
def Reg.toBits (t : Reg) : BitVec 4 := BitVec.ofNat 4 t.val

/-- Decode an A32 word (R68, R71 to R73). `cond = 0b1111` is another instruction (R68); of the other conditions
only always, `0b1110`, is admitted (R72). -/
def decodeA32 (w : Word) : Except DecodeRefusal Instr :=
  let f := Fields.ofA32 w
  if !f.namesIccHsre || f.cond == 0b1111 then .error .notIccHsre
  else if f.cond != 0b1110 then .error .conditional
  else
    match Reg.ofBits f.rt with
    | none => .error (.rtNotAdmitted f.rt)
    | some t => .ok (if f.l == 1 then .mrcA32 t else .mcrA32 t)

/-- Decode two T32 halfwords (R69, R71 to R73). `inBlock`: the instruction stands inside a conditional block. -/
def decodeT32 (inBlock : Bool) (first second : BitVec 16) : Except DecodeRefusal Instr :=
  let f := Fields.ofT32 first second
  if !f.namesIccHsre || f.cond != 0b1110 then .error .notIccHsre
  else if inBlock then .error .conditional
  else
    match Reg.ofBits f.rt with
    | none => .error (.rtNotAdmitted f.rt)
    | some t =>
      if t == 13 then .error (.rtNotAdmitted f.rt)
      else .ok (if f.l == 1 then .mrcT32 t else .mcrT32 t)

/-- The decoder: total on every 32-bit number in either instruction set (R70). A T32 number has its first halfword
in bits 31:16 (R69). -/
def decode (set : InstrSet) (inBlock : Bool) (w : Word) : Except DecodeRefusal Instr :=
  match set with
  | .a32 => decodeA32 w
  | .t32 => decodeT32 inBlock (w.extractLsb' 16 16) (w.extractLsb' 0 16)

/-- The fields of an access to ICC_HSRE with the always condition (R64, R68, R69). -/
def Fields.access (dir : Direction) (t : Reg) : Fields where
  cond := 0b1110
  op := 0b1110
  opc1 := SysRegLoc.iccHsre.opc1
  l := match dir with
    | .read => 1
    | .write => 0
  crn := SysRegLoc.iccHsre.crn
  rt := t.toBits
  coproc := SysRegLoc.iccHsre.coproc
  opc2 := SysRegLoc.iccHsre.opc2
  one := 1
  crm := SysRegLoc.iccHsre.crm

/-- The encoder: the 32-bit number of an instruction (R68; for T32 first halfword in bits 31:16, R69). -/
def encode (i : Instr) : Word :=
  let f := Fields.access i.dir i.rt
  match i.set with
  | .a32 => f.toA32
  | .t32 => f.toT32

/-- One assembler line of R62 or R63, its optional parts as options. -/
structure AsmLine where
  /-- `MRC` is a read, `MCR` a write. -/
  dir : Direction
  /-- `<c>`, the condition; left out means always (R68, R72). -/
  cond : Option (BitVec 4)
  /-- Whether `<q>`, the width qualifier, is written: both forms are 32 bits long, so it selects nothing (R70). -/
  qualified : Bool
  coproc : BitVec 4
  /-- Whether `#` stands before `<opc1>`: it is optional (R62). -/
  hash1 : Bool
  opc1 : BitVec 3
  rt : BitVec 4
  crn : BitVec 4
  crm : BitVec 4
  /-- `<opc2>`, with whether `#` stands before it; left out means 0 (R65). -/
  opc2 : Option (Bool × BitVec 3)
deriving DecidableEq, Repr

/-- The line of R65 for an access to ICC_HSRE: `MRC p15, 4, <Rt>, c12, c9, 5` or `MCR …`. -/
def AsmLine.access (dir : Direction) (t : Reg) : AsmLine where
  dir := dir
  cond := none
  qualified := false
  coproc := 15
  hash1 := false
  opc1 := 4
  rt := t.toBits
  crn := 12
  crm := 9
  opc2 := some (false, 5)

/-- Operand assembly: every operand is placed unchanged in its field (R67). -/
def AsmLine.fields (a : AsmLine) : Fields where
  cond := a.cond.getD 0b1110
  op := 0b1110
  opc1 := a.opc1
  l := match a.dir with
    | .read => 1
    | .write => 0
  crn := a.crn
  rt := a.rt
  coproc := a.coproc
  opc2 := (a.opc2.map Prod.snd).getD 0
  one := 1
  crm := a.crm

/-- The number an assembler line stands for. A T32 instruction has no condition field: a line with a condition is
assembled only in A32 (R68, R69). -/
def AsmLine.assemble (set : InstrSet) (a : AsmLine) : Option Word :=
  match set, a.cond with
  | .a32, _ => some a.fields.toA32
  | .t32, none => some a.fields.toT32
  | .t32, some _ => none

/-- How a number of spec/opcode_table.json is placed: its instruction set and its 32-bit number in this model. The
A32 and T32 rows of one direction have the same number, and it is read as A32. A number that is no A32 row and
whose FIRST halfword stands in bits 15:0 is the T32 instruction with its halves exchanged
(notes/assumptions/9.md). -/
def tablePlacement (nbits w : Nat) : InstrSet × Word :=
  let x : Word := BitVec.ofNat 32 (w % 2 ^ nbits)
  let y : Word := (x.extractLsb' 0 16 ++ x.extractLsb' 16 16).cast (by rfl)
  match decode .a32 false x with
  | .ok _ => (.a32, x)
  | .error _ =>
    match decode .t32 false y with
    | .ok _ => (.t32, y)
    | .error _ => (.a32, x)

/-- The instruction the decoder reads from a number of spec/opcode_table.json. -/
def decodeTableWord (nbits w : Nat) : Option Instr :=
  match decode (tablePlacement nbits w).1 false (tablePlacement nbits w).2 with
  | .ok i => some i
  | .error _ => none

end Sys2Proof
end

