-- ==== Sys2Proof/Machine/Fetch.lean ====
section
/-! DEFINITION. The instruction the PE runs next: the launch premise (R6), the program text at the program counter
(R61), the decoder (R70 to R73). -/

namespace Sys2Proof.Machine

/-- The launch premise in a state (R6). -/
def State.launchPremise (s : State) : Bool := Machine.launchPremise s.params s.inputs s.msreDib s.msreDfb

/-- The next instruction, or why there is none. `Halted()` is not read: in Debug state the instruction comes from the
program text at the program counter as it does outside. How a halted PE is issued an instruction is not in the source
(R91, D27), so this is the model's DESIGN CHOICE (notes/assumptions/30.md). -/
def fetch (s : State) : Except Refusal Instr :=
  if !s.launchPremise then .error .launchPremise
  else
    match Program.lookup s.program s.pc.toNat with
    | none => .error .noProgramText
    | some w =>
      match decode s.instrSet s.inCondBlock w with
      | .error r => .error (.decode r)
      | .ok i => .ok i

/-- Place a number of spec/opcode_table.json where the PE fetches next, and make the next turn the PE's
(notes/assumptions/9.md). -/
def State.placeTableWord (s : State) (nbits w : Nat) : State :=
  { s with
    program := Program.place s.program s.pc.toNat (tablePlacement nbits w).2
    instrSet := (tablePlacement nbits w).1
    inCondBlock := false
    schedule := .pe :: s.schedule }

end Sys2Proof.Machine
end

