-- ==== Sys2Proof/Machine/Step.lean ====
section
/-! DEFINITION. One step: one turn of the PE, of the environment or of the surrounding machine (R110). -/

namespace Sys2Proof.Machine

/-- The PE's turn: fetch, decode, execute. -/
def peTurn (s : State) : Host.Outcome State Fault Refusal :=
  match fetch s with
  | .error r => .refused r
  | .ok i => exec i s

/-- One step. Without a turn on the schedule it is the PE's. -/
def step (s : State) : Host.Outcome State Fault Refusal :=
  match s.schedule with
  | [] => peTurn s
  | .pe :: rest => peTurn { s with schedule := rest }
  | .env a :: rest => envStep a { s with schedule := rest }
  | .contextSync :: rest => .next (State.contextSync { s with schedule := rest })

/-- `s` with a number of spec/opcode_table.json placed where the next step fetches. -/
def State.withFetchWord (s : State) (nbits w : Nat) : State := s.placeTableWord nbits w

end Sys2Proof.Machine
end

