-- ==== Sys2Proof/Machine/Syndrome.lean ====
section
/-! DEFINITION. Background from general knowledge (60_exceptions.md section 6, 95_test_vectors.md section 4): the
syndrome value that a larger model would record for a trap. No rule depends on it and no step reads it; PRESUMED,
notes/assumptions/13.md. -/

namespace Sys2Proof.Machine

/-- The direction bit: 1 for a read. -/
def directionBit : Direction → BitVec 1
  | .read => 1
  | .write => 0

/-- The instruction-specific syndrome, 25 bits: CV 1 and COND always; Opc2, Opc1, CRn, Rt, CRm, direction. -/
def Access.syndrome (a : Access) : BitVec 25 :=
  (1 : BitVec 1) ++ (0b1110 : BitVec 4) ++ SysRegLoc.iccHsre.opc2 ++ SysRegLoc.iccHsre.opc1
    ++ SysRegLoc.iccHsre.crn ++ BitVec.ofNat 5 a.rt.val ++ SysRegLoc.iccHsre.crm ++ directionBit a.dir

/-- The syndrome register: class, instruction length bit 1, instruction-specific syndrome. -/
def Fault.syndrome (f : Fault) : Option Word :=
  f.number.map fun n => n ++ (1 : BitVec 1) ++ f.access.syndrome

end Sys2Proof.Machine
end

