-- ==== Sys2Proof/Machine/Predicates.lean ====
section
/-! DEFINITION. What the register's value says to the rest of the machine (R36, R37), and when a write is seen there
(R107). Nothing in this machine reads it. -/

namespace Sys2Proof.Machine

/-- The exported predicates (R37). -/
inductive Predicate where
  | sysRegInterfaceEnabledForEL2
  | otherGicSysRegAccessUndefined
  | nsEL1IccSreAccessTrapsToEL2
  | irqBypassEnabled
  | fiqBypassEnabled
deriving DecidableEq, Repr

/-- `EffectiveEnable` of a value of ICC_HSRE (R13, R36). -/
def effectiveEnable (v : Word) : Bool := if v[0] then v[3] else true

/-- A predicate of a value of ICC_HSRE (R37). -/
def Predicate.holdsOf (q : Predicate) (v : Word) : Bool :=
  match q with
  | .sysRegInterfaceEnabledForEL2 => v[0]
  | .otherGicSysRegAccessUndefined => !v[0]
  | .nsEL1IccSreAccessTrapsToEL2 => !effectiveEnable v
  | .irqBypassEnabled => !v[2]
  | .fiqBypassEnabled => !v[1]

/-- The predicate may have the value `b` for the rest of the machine now: for the current view, or for one before a
write that is not yet context synchronised, and for some bits drawn for its unknown cells (R107). Only the four low
bits matter, so sixteen draws cover all. -/
def Predicate.mayBe (q : Predicate) (b : Bool) (s : State) : Bool :=
  (s.view :: s.window).any fun v => (List.range 16).any fun d => q.holdsOf (v.word (BitVec.ofNat 32 d)) == b

end Sys2Proof.Machine
end

