-- ==== Sys2Proof/Safety.lean ====
section
/-! DEFINITION. The terms claims use: the consistency premises (R49), a quiet environment (R110), the invariants. -/

namespace Sys2Proof.Safety

open Sys2Proof.Machine

/-- The constraints of R49 between the inputs and the implementation: from general knowledge, to be used only as a
named premise. The check is total without them. -/
def Consistent (s : State) : Bool :=
  (s.inputs.el != .el2 || (s.params.haveEL2 && s.inputs.el2IsAArch32))
    && (s.inputs.el != .el3 || (s.params.haveEL3 && s.inputs.el3IsAArch32))
    && (!s.inputs.el3IsAArch32 || s.inputs.el2IsAArch32 || !s.params.haveEL3)
    && (!s.inputs.el2Enabled || s.params.haveEL2)

/-- No environment action is to come: "no environment action between these instructions" (R59, R110). -/
def Quiet (s : State) : Bool :=
  s.schedule.all fun t => match t with
    | .env _ => false
    | .pe => true
    | .contextSync => true

/-- A cell that does not exist holds 0 (R33; notes/assumptions/5.md). -/
def AbsentCellsZero (s : State) : Prop :=
  (sreExists s.params = false → s.hsre.sre = .known false)
    ∧ (dfbExists s.params = false → s.hsre.dfb = .known false)
    ∧ (dibExists s.params = false → s.hsre.dib = .known false)
    ∧ (enableExists s.params = false → s.hsre.enable = .known false)
    ∧ ∀ i : Fin 28, s.params.res0WritableMask[i] = false → s.hsre.res[i] = .known false

/-- The invariant of the machine's data: the program text is in its canonical form and no absent cell holds
anything. -/
def Inv (s : State) : Prop := Program.wf s.program = true ∧ AbsentCellsZero s

/-- The access is allowed: rows 11 and 13 of the table of R84. -/
def MayAccess (s : State) : Prop :=
  present s.params = true
    ∧ ((s.inputs.el = .el2 ∧ el3Forbids s.params s.inputs = false
          ∧ msreEnable s.params s.inputs (Config.drawMsreEnable s.draws) = true)
      ∨ (s.inputs.el = .el3 ∧ s.inputs.el2Enabled = true))

/-- A write of `v` would change SRE from 1 to 0 (R27): the bit reads 1, it is not RAO/WI, and `v` has 0 there. -/
def ClearsSre (s : State) (v : Word) : Prop :=
  s.readView[0] = true ∧ s.params.gicSysregOnly = false ∧ v[0] = false

/-- No cell that a read of the register finds is unknown. -/
def View.Known (v : View) : Prop :=
  v.sre ≠ .unknown ∧ v.dfb ≠ .unknown ∧ v.dib ≠ .unknown ∧ v.enable ≠ .unknown ∧ ∀ i : Fin 28, v.res[i] ≠ .unknown

/-- The decision table of R84: for each of its thirteen rows, whether the row applies, and its outcome. -/
def checkTable (p : Params) (e : Inputs) (d : Bool) : List (Bool × CheckOutcome) :=
  let pr := p.el2AArch32Capable && p.featGICv3 && (p.haveEL2 || p.haveEL3)
  let a := p.haveEL3 && !e.el3IsAArch32 && !e.iccSreEl3Enable
  let hs := e.halted && e.edscrSdd
  let m := msreEnable p e d
  [(!pr, .raise .undefined),
   (pr && e.el == .el0, .raise .undefined),
   (pr && e.el == .el1 && !e.el2Enabled, .raise .undefined),
   (pr && e.el == .el1 && e.el2Enabled && !e.el2IsAArch32 && e.hstrEl2T12, .raise (.trapToEL2AArch64 0x03)),
   (pr && e.el == .el1 && e.el2Enabled && !e.el2IsAArch32 && !e.hstrEl2T12, .raise .undefined),
   (pr && e.el == .el1 && e.el2Enabled && e.el2IsAArch32 && e.hstrT12, .raise (.hypTrap 0x03)),
   (pr && e.el == .el1 && e.el2Enabled && e.el2IsAArch32 && !e.hstrT12, .raise .undefined),
   (pr && e.el == .el2 && a && hs, .raise .undefined),
   (pr && e.el == .el2 && a && !hs, .raise (.trapToEL3AArch64 0x03)),
   (pr && e.el == .el2 && !a && !m, .raise .undefined),
   (pr && e.el == .el2 && !a && m, .allow),
   (pr && e.el == .el3 && !e.el2Enabled, .raise .undefined),
   (pr && e.el == .el3 && e.el2Enabled, .allow)]

/-- The turn that step takes is the PE's. -/
def PeTurn (s : State) : Prop := s.schedule = [] ∨ s.schedule.head? = some .pe

/-- SRE is known to read 1, whatever is drawn. -/
def SreIsOne (s : State) : Prop := s.view.sre = .known true

end Sys2Proof.Safety
end

