-- ==== Sys2Proof/Certificates/Slice0/Obligations.lean ====
section
/-! DEFINITION. The statements for the provers. Each docstring names the rules of spec/ it formalises. -/

open Sys2Proof Sys2Proof.Machine Sys2Proof.Safety

/-! ### Encoding -/

/-- R64, R68, R69: decoding the number of a well-formed instruction gives it back, for every `Rt`. -/
def Obligations.DecodeOfEncodeIsTheInstruction : Prop :=
  ∀ (i : Instr) (inBlock : Bool), i.WellFormed → (i.set = .t32 → inBlock = false) →
    decode i.set inBlock (encode i) = .ok i

/-- R68 to R73: a number that decodes is the encoding of what it decodes to, so nothing else is admitted. -/
def Obligations.DecodedNumberIsTheEncoding : Prop :=
  ∀ (set : InstrSet) (inBlock : Bool) (w : Word) (i : Instr), decode set inBlock w = .ok i →
    w = encode i ∧ i.WellFormed ∧ i.set = set ∧ (set = .t32 → inBlock = false)

/-- Vectors DV1, DV3, DV7, DV9, DV10, DV17, DV18, DV19 of 95_test_vectors.md. -/
def Obligations.SpecWordsDecodeAsTheSpecSays : Prop :=
  decode .a32 false 0xEE9C0FB9 = .ok (.mrcA32 0) ∧ decode .a32 false 0xEE9CEFB9 = .ok (.mrcA32 14)
    ∧ decode .a32 false 0xEE8C3FB9 = .ok (.mcrA32 3) ∧ decode .a32 false 0x0E9C0FB9 = .error .conditional
    ∧ decode .a32 false 0xFE9C0FB9 = .error .notIccHsre ∧ decode .t32 false 0xEE9C0FB9 = .ok (.mrcT32 0)
    ∧ decode .t32 false 0xEE8C2FB9 = .ok (.mcrT32 2) ∧ decode .t32 false 0xEE9CDFB9 = .error (.rtNotAdmitted 13)

/-- R72 (the spec's decision D4): only the always condition in A32, only outside a conditional block in T32. That a word
with a refused `Rt` too is refused as conditional is the model's choice (notes/assumptions/15.md). -/
def Obligations.OnlyTheAlwaysConditionIsAdmitted : Prop :=
  (∀ (b : Bool) (w : Word) (i : Instr), decode .a32 b w = .ok i → w.extractLsb' 28 4 = 0b1110)
    ∧ (∀ (w : Word) (i : Instr), decode .t32 true w ≠ .ok i)
    ∧ (∀ (b : Bool) (f : Fields), f.namesIccHsre = true → f.cond ≠ 0b1110 → f.cond ≠ 0b1111 →
        decode .a32 b f.toA32 = .error .conditional)
    ∧ ∀ f : Fields, f.namesIccHsre = true → f.cond = 0b1110 →
        decodeT32 true f.firstT32 f.secondT32 = .error .conditional

/-- R71: which `Rt` each decoder refuses, and that it admits every other. -/
def Obligations.RefusedAndAdmittedRt : Prop :=
  ∀ (dir : Direction) (r : BitVec 4) (b : Bool),
    let f : Fields := { Fields.access dir 0 with rt := r }
    (r = 15 → decode .a32 b f.toA32 = .error (.rtNotAdmitted 15))
      ∧ (∀ t : Reg, t.toBits = r →
          decode .a32 b f.toA32 = .ok (match dir with | .read => .mrcA32 t | .write => .mcrA32 t))
      ∧ (r = 15 ∨ r = 13 → decodeT32 false f.firstT32 f.secondT32 = .error (.rtNotAdmitted r))
      ∧ (∀ t : Reg, t.toBits = r → t ≠ 13 →
          decodeT32 false f.firstT32 f.secondT32 = .ok (match dir with | .read => .mrcT32 t | .write => .mcrT32 t))

/-- R73: every word outside the rows of spec/opcode_table.json is refused as "not ICC_HSRE". -/
def Obligations.OtherWordsAreNotIccHsre : Prop :=
  (∀ (b : Bool) (w : Word), w &&& 0x0FFF0FFF ≠ 0x0E9C0FB9 → w &&& 0x0FFF0FFF ≠ 0x0E8C0FB9 →
      decode .a32 b w = .error .notIccHsre)
    ∧ (∀ (b : Bool) (w : Word), w &&& 0xF0000000 = 0xF0000000 → decode .a32 b w = .error .notIccHsre)
    ∧ ∀ (b : Bool) (w : Word), w &&& 0xFFFF0FFF ≠ 0xEE9C0FB9 → w &&& 0xFFFF0FFF ≠ 0xEE8C0FB9 →
        decode .t32 b w = .error .notIccHsre

/-- R67 to R69: every operand field is placed unchanged in both layouts. -/
def Obligations.OperandsArePlacedUnchanged : Prop :=
  ∀ f : Fields, Fields.ofA32 f.toA32 = f ∧ Fields.ofT32 f.firstT32 f.secondT32 = f

/-- R62, R63, R65: the assembler lines of ICC_HSRE and the numbers of R68 and R69 they stand for; `#` changes nothing;
with `<opc2>` left out the word is another location's, which the decoder refuses (R73). The spellings, the 0 of an
omitted `<opc2>`, and that the qualifier changes nothing are PRESUMED (notes/assumptions/24.md). -/
def Obligations.AssemblerLineOfIccHsre : Prop :=
  ∀ (i : Instr) (q h1 h2 : Bool),
    ({ AsmLine.access i.dir i.rt with qualified := q, hash1 := h1, opc2 := some (h2, 5) } : AsmLine).assemble i.set
        = some (encode i)
      ∧ ∃ w, ({ AsmLine.access i.dir i.rt with opc2 := none } : AsmLine).assemble i.set = some w
        ∧ decode i.set false w = .error .notIccHsre

/-! ### The access check and the exceptions -/

/-- R84: exactly one row of the decision table applies, and the check is its outcome. -/
def Obligations.AccessCheckIsTheTable : Prop :=
  ∀ (p : Params) (e : Inputs) (d : Bool),
    ((checkTable p e d).filter fun r => r.1).map (fun r => r.2) = [accessCheck p e d]

/-- R76, R77, R79: the outcome at EL0, at EL1 and at EL3, the register being present. -/
def Obligations.OutcomesAtEl0El1AndEl3 : Prop :=
  ∀ (i : Instr) (s : State), i.WellFormed → present s.params = true →
    let e := s.inputs
    let a : Access := { dir := i.dir, rt := i.rt }
    (e.el = .el0 → exec i s = .fault (.undefined a))
      ∧ (e.el = .el1 → exec i s =
          if e.el2Enabled && !e.el2IsAArch32 && e.hstrEl2T12 then .fault (.trapToEL2AArch64 0x03 a)
          else if e.el2Enabled && e.el2IsAArch32 && e.hstrT12 then .fault (.hypTrap 0x03 a)
          else .fault (.undefined a))
      ∧ (e.el = .el3 → e.el2Enabled = false → exec i s = .fault (.undefined a))
      ∧ (e.el = .el3 → e.el2Enabled = true → s.check = .allow ∧ ∀ f, exec i s ≠ .fault f)

/-- R80: the IMPLEMENTATION_DEFINED Boolean decides nothing, and the EL2 branch is the reduced one. -/
def Obligations.PriorityBooleanDecidesNothing : Prop :=
  ∀ (p : Params) (e : Inputs) (d b : Bool),
    accessCheck { p with impdefEl3TrapPrioritySdd := b } e d = accessCheck p e d
      ∧ checkEL2 p e d =
          if p.haveEL3 && !e.el3IsAArch32 && !e.iccSreEl3Enable then
            if e.halted && e.edscrSdd then .raise .undefined else .raise (.trapToEL3AArch64 0x03)
          else if msreEnable p e d = false then .raise .undefined
          else .allow

/-- R91: Debug state with SDD 1 turns the trap to EL3 into `Undefined`, and changes nothing else. -/
def Obligations.DebugStateOnlyReplacesTheEl3Trap : Prop :=
  ∀ (p : Params) (e : Inputs) (d : Bool),
    accessCheck p e d =
      if e.halted && e.edscrSdd && (accessCheck p { e with halted := false } d == .raise (.trapToEL3AArch64 0x03))
      then .raise .undefined
      else accessCheck p { e with halted := false } d

/-- R81: the check reads neither ICC_HSRE, nor its shared cells, nor `R[t]`, nor the controls of its fields. -/
def Obligations.CheckDoesNotReadTheRegister : Prop :=
  ∀ (s : State) (h : Hsre) (dib dfb ds sre3 sreM : Bool) (regs : Vector Word 15),
    State.check
        { s with
          hsre := h, msreDib := dib, msreDfb := dfb, regs := regs
          inputs := { s.inputs with gicdCtlrDs := ds, iccSreEl3Sre := sre3, iccMsreSre := sreM } }
      = s.check

/-- R86: the complete list of conditions that produce `Undefined`. -/
def Obligations.UndefinedExactlyInTheSixCases : Prop :=
  ∀ (i : Instr) (s : State), i.WellFormed →
    let p := s.params
    let e := s.inputs
    let pr := p.el2AArch32Capable && p.featGICv3 && (p.haveEL2 || p.haveEL3)
    let a := p.haveEL3 && !e.el3IsAArch32 && !e.iccSreEl3Enable
    exec i s = .fault (.undefined { dir := i.dir, rt := i.rt }) ↔
      pr = false
        ∨ e.el = .el0
        ∨ (e.el = .el1 ∧ (e.el2Enabled = false ∨ (e.el2IsAArch32 = false ∧ e.hstrEl2T12 = false)
            ∨ (e.el2IsAArch32 = true ∧ e.hstrT12 = false)))
        ∨ (e.el = .el2 ∧ a = true ∧ e.halted = true ∧ e.edscrSdd = true)
        ∨ (e.el = .el2 ∧ a = false ∧ msreEnable p e (Config.drawMsreEnable s.draws) = false)
        ∨ (e.el = .el3 ∧ e.el2Enabled = false)

/-- R87: when a trap to an EL2 using AArch64 is taken, with which number, and to which level. That the outcome is
terminal, so that nothing is written, is the spec's decision D15 (notes/assumptions/10.md). -/
def Obligations.TrapToEl2ExactlyWhen : Prop :=
  ∀ (i : Instr) (s : State), i.WellFormed →
    (exec i s = .fault (.trapToEL2AArch64 0x03 { dir := i.dir, rt := i.rt }) ↔
      present s.params = true ∧ s.inputs.el = .el1 ∧ s.inputs.el2Enabled = true ∧ s.inputs.el2IsAArch32 = false
        ∧ s.inputs.hstrEl2T12 = true)
    ∧ (Fault.trapToEL2AArch64 0x03 { dir := i.dir, rt := i.rt }).target = some .el2

/-- R88: when a Hyp trap is taken, and to which level. -/
def Obligations.HypTrapExactlyWhen : Prop :=
  ∀ (i : Instr) (s : State), i.WellFormed →
    (exec i s = .fault (.hypTrap 0x03 { dir := i.dir, rt := i.rt }) ↔
      present s.params = true ∧ s.inputs.el = .el1 ∧ s.inputs.el2Enabled = true ∧ s.inputs.el2IsAArch32 = true
        ∧ s.inputs.hstrT12 = true)
    ∧ (Fault.hypTrap 0x03 { dir := i.dir, rt := i.rt }).target = some .el2

/-- R89: when a trap to an EL3 using AArch64 is taken, and to which level; an EL3 using AArch32 gets no trap but
`Undefined`. -/
def Obligations.TrapToEl3ExactlyWhen : Prop :=
  ∀ (i : Instr) (s : State), i.WellFormed →
    (exec i s = .fault (.trapToEL3AArch64 0x03 { dir := i.dir, rt := i.rt }) ↔
      present s.params = true ∧ s.inputs.el = .el2 ∧ s.params.haveEL3 = true ∧ s.inputs.el3IsAArch32 = false
        ∧ s.inputs.iccSreEl3Enable = false ∧ ¬(s.inputs.halted = true ∧ s.inputs.edscrSdd = true))
    ∧ (Fault.trapToEL3AArch64 0x03 { dir := i.dir, rt := i.rt }).target = some .el3
    ∧ (s.inputs.el = .el2 → s.params.haveEL3 = true → s.inputs.el3IsAArch32 = true →
        s.inputs.iccMsreEnable = false → exec i s = .fault (.undefined { dir := i.dir, rt := i.rt }))

/-- R90, R93: an exception outcome records the access, and the number of every trap is `0x03`. -/
def Obligations.ExceptionRecordsTheAccess : Prop :=
  ∀ (i : Instr) (s : State) (f : Fault), exec i s = .fault f →
    f.access = { dir := i.dir, rt := i.rt } ∧ ∀ n, f.number = some n → n = 0x03

/-- R4: with the register absent every access is `Undefined`, at every level. -/
def Obligations.AbsentRegisterIsUndefined : Prop :=
  ∀ (i : Instr) (s : State), i.WellFormed →
    (s.params.el2AArch32Capable && s.params.featGICv3 && (s.params.haveEL2 || s.params.haveEL3)) = false →
    exec i s = .fault (.undefined { dir := i.dir, rt := i.rt })

/-- 90_conflicts.md C2: without EL2 every access is `Undefined`, the register being present or not, in every state
that meets the constraints of R49. -/
def Obligations.WithoutEl2EveryAccessIsUndefined : Prop :=
  ∀ (i : Instr) (s : State), Consistent s = true → s.params.haveEL2 = false → i.WellFormed →
    exec i s = .fault (.undefined { dir := i.dir, rt := i.rt })

/-- R74: the read and the write take the same exceptions, whatever `R[t]` holds. -/
def Obligations.ReadAndWriteTakeTheSameExceptions : Prop :=
  ∀ (s : State) (t : Reg) (regs : Vector Word 15) (x : Exc),
    (exec (.mrcA32 t) s = takeException x { dir := .read, rt := t } ↔
      exec (.mcrA32 t) { s with regs := regs } = takeException x { dir := .write, rt := t })
    ∧ (t ≠ 13 → (exec (.mrcT32 t) s = takeException x { dir := .read, rt := t } ↔
      exec (.mcrT32 t) { s with regs := regs } = takeException x { dir := .write, rt := t }))

/-- R84, R95, R96: an access that completes was made at EL2, or at EL3 with EL2 enabled, and nothing forbade it. -/
def Obligations.CompletedAccessWasAllowed : Prop :=
  ∀ (i : Instr) (s t : State), exec i s = .next t →
    present s.params = true
      ∧ ((s.inputs.el = .el2 ∧ (s.params.haveEL3 && !s.inputs.el3IsAArch32 && !s.inputs.iccSreEl3Enable) = false
            ∧ msreEnable s.params s.inputs (Config.drawMsreEnable s.draws) = true)
        ∨ (s.inputs.el = .el3 ∧ s.inputs.el2Enabled = true))

/-! ### The two instructions -/

/-- R82: where the access is allowed, the read completes, in both instruction sets; the whole next state. The counter
`draws` and the width of the program counter are the model's choice (notes/assumptions/4.md, 7.md). -/
def Obligations.ReadCompletesWithTheReadView : Prop :=
  ∀ (s : State) (t : Reg), MayAccess s →
    exec (.mrcA32 t) s
        = .next { s with regs := s.regs.set t s.readView, pc := s.pc + 4, draws := s.draws + 1 }
      ∧ (t ≠ 13 → exec (.mrcT32 t) s
        = .next { s with regs := s.regs.set t s.readView, pc := s.pc + 4, draws := s.draws + 1 })

/-- R83, R35: where the access is allowed and SRE is not changed from 1 to 0, the write completes, in both instruction
sets; the whole next state. The counter `draws`, the width of the program counter and the list `window` are the
model's choice (notes/assumptions/4.md, 7.md, 17.md). -/
def Obligations.WriteCompletesWithTheUpdatedFields : Prop :=
  ∀ (s : State) (t : Reg), MayAccess s → ¬ClearsSre s s.regs[t] →
    let p := s.params
    let v := s.regs[t]
    let after : State :=
      { s with
        hsre :=
          { sre := if p.gicSysregOnly || sreRazWi p s.inputs then s.hsre.sre else .known v[0]
            dfb := if p.fiqBypassSupported && !p.haveEL3 then .known v[1] else s.hsre.dfb
            dib := if p.irqBypassSupported && !p.haveEL3 then .known v[2] else s.hsre.dib
            enable := if p.gicSysregOnly && p.enableRaoWiWithSre then s.hsre.enable else .known v[3]
            res := Vector.ofFn fun i =>
              if p.res0WritableMask[i] then .known (v.getLsbD (i.val + 4)) else s.hsre.res[i] }
        msreDib := if p.irqBypassSupported && p.haveEL3 && s.inputs.gicdCtlrDs then v[2] else s.msreDib
        msreDfb := if p.fiqBypassSupported && p.haveEL3 && s.inputs.gicdCtlrDs then v[1] else s.msreDfb
        window := s.view :: s.window
        pc := s.pc + 4
        draws := s.draws + 1 }
    exec (.mcrA32 t) s = .next after ∧ (t ≠ 13 → exec (.mcrT32 t) s = .next after)

/-- R27, R83, R106: a write is refused as UNPREDICTABLE exactly when it is allowed and changes SRE from 1 to 0. -/
def Obligations.ClearingSreIsRefused : Prop :=
  ∀ (s : State) (t : Reg),
    (exec (.mcrA32 t) s = .refused .unpredictableSre1To0 ↔ MayAccess s ∧ ClearsSre s s.regs[t])
      ∧ (t ≠ 13 → (exec (.mcrT32 t) s = .refused .unpredictableSre1To0 ↔ MayAccess s ∧ ClearsSre s s.regs[t]))
      ∧ exec (.mrcA32 t) s ≠ .refused .unpredictableSre1To0
      ∧ exec (.mrcT32 t) s ≠ .refused .unpredictableSre1To0

/-- R71 (the spec's decision D24): the T32 forms with `Rt = 13` are given no meaning. That `exec` stops on one under
the decoder's refusal is the model's choice (notes/assumptions/15.md). -/
def Obligations.T32ThirteenStops : Prop :=
  ∀ s : State, exec (.mrcT32 13) s = .refused (.decode (.rtNotAdmitted 13))
    ∧ exec (.mcrT32 13) s = .refused (.decode (.rtNotAdmitted 13))

/-- R82, R58, R51: what a read leaves unchanged. -/
def Obligations.ReadFrame : Prop :=
  ∀ (i : Instr) (s t : State), i.dir = .read → exec i s = .next t →
    (∀ r : Reg, r ≠ i.rt → t.regs[r] = s.regs[r])
      ∧ t.hsre = s.hsre ∧ t.msreDib = s.msreDib ∧ t.msreDfb = s.msreDfb ∧ t.inputs = s.inputs
      ∧ t.params = s.params ∧ t.instrSet = s.instrSet ∧ t.inCondBlock = s.inCondBlock
      ∧ t.schedule = s.schedule ∧ t.window = s.window
      ∧ ∀ a, Program.lookup t.program a = Program.lookup s.program a

/-- R83, R35, R51: what a write leaves unchanged. Among it are each cell that does not exist (R33), SRE's also where it
is RAZ/WI (R29, R30), and each of ICC_MSRE's cells unless it is a read/write alias: EL3 implemented, `GICD_CTLR.DS` 1,
and bypass supported (R16 to R18, R21 to R23). -/
def Obligations.WriteFrame : Prop :=
  ∀ (i : Instr) (s t : State), i.dir = .write → exec i s = .next t →
    (∀ r : Reg, t.regs[r] = s.regs[r])
      ∧ (s.params.gicSysregOnly = true ∨ sreRazWi s.params s.inputs = true → t.hsre.sre = s.hsre.sre)
      ∧ (s.params.fiqBypassSupported = false ∨ s.params.haveEL3 = true → t.hsre.dfb = s.hsre.dfb)
      ∧ (s.params.irqBypassSupported = false ∨ s.params.haveEL3 = true → t.hsre.dib = s.hsre.dib)
      ∧ ((s.params.gicSysregOnly && s.params.enableRaoWiWithSre) = true → t.hsre.enable = s.hsre.enable)
      ∧ (∀ j : Fin 28, s.params.res0WritableMask[j] = false → t.hsre.res[j] = s.hsre.res[j])
      ∧ (s.params.haveEL3 = false ∨ s.inputs.gicdCtlrDs = false ∨ s.params.irqBypassSupported = false →
        t.msreDib = s.msreDib)
      ∧ (s.params.haveEL3 = false ∨ s.inputs.gicdCtlrDs = false ∨ s.params.fiqBypassSupported = false →
        t.msreDfb = s.msreDfb)
      ∧ t.inputs = s.inputs ∧ t.params = s.params ∧ t.instrSet = s.instrSet ∧ t.inCondBlock = s.inCondBlock
      ∧ t.schedule = s.schedule
      ∧ ∀ a, Program.lookup t.program a = Program.lookup s.program a

/-- R40: an access that completes moves the program counter past its four bytes (32 bits, wrapping, and while halted
too: the model's choice, notes/assumptions/7.md, 30.md). -/
def Obligations.CompletedAccessAdvancesThePc : Prop :=
  ∀ (i : Instr) (s t : State), exec i s = .next t → t.pc = s.pc + 4

/-! ### The fields -/

/-- R34: the value read, bit by bit, with `d` the free bits drawn for unknown cells. -/
def Obligations.ReadViewBitByBit : Prop :=
  ∀ s : State,
    let p := s.params
    let d := Config.drawView s.draws
    s.readView[0] = (if p.gicSysregOnly then true
        else if p.haveEL3 && ((!s.inputs.el3IsAArch32 && !s.inputs.iccSreEl3Sre)
          || (s.inputs.el3IsAArch32 && !s.inputs.iccMsreSre)) then false
        else s.hsre.sre.resolve d[0])
      ∧ s.readView[1] = (if !p.fiqBypassSupported then true else if p.haveEL3 then s.msreDfb
        else s.hsre.dfb.resolve d[1])
      ∧ s.readView[2] = (if !p.irqBypassSupported then true else if p.haveEL3 then s.msreDib
        else s.hsre.dib.resolve d[2])
      ∧ s.readView[3] = (if p.gicSysregOnly && p.enableRaoWiWithSre then true else s.hsre.enable.resolve d[3])
      ∧ ∀ i : Fin 28, s.readView.getLsbD (i.val + 4)
          = (if p.res0WritableMask[i] then s.hsre.res[i].resolve (d.getLsbD (i.val + 4)) else false)

/-- R28: with only a System register interface SRE is RAO/WI. -/
def Obligations.SysregOnlySreReadsOneIgnoresWrites : Prop :=
  ∀ (i : Instr) (s t : State), s.params.gicSysregOnly = true → exec i s = .next t →
    (i.dir = .read → (t.regs[i.rt])[0] = true)
      ∧ (i.dir = .write → t.hsre.sre = s.hsre.sre ∧ t.readView[0] = true)

/-- R29: under an EL3 using AArch64 with `ICC_SRE_EL3.SRE` 0, SRE is RAZ/WI; the stored bit stays. -/
def Obligations.SreIsRazWiUnderAArch64El3 : Prop :=
  ∀ (i : Instr) (s t : State), s.params.gicSysregOnly = false → s.params.haveEL3 = true →
    s.inputs.el3IsAArch32 = false → s.inputs.iccSreEl3Sre = false → exec i s = .next t →
    (i.dir = .read → (t.regs[i.rt])[0] = false)
      ∧ (i.dir = .write → t.hsre.sre = s.hsre.sre ∧ t.readView[0] = false)

/-- R30: under an EL3 using AArch32 with `ICC_MSRE.SRE` 0, SRE is RAZ/WI; the stored bit stays. -/
def Obligations.SreIsRazWiUnderAArch32El3 : Prop :=
  ∀ (i : Instr) (s t : State), s.params.gicSysregOnly = false → s.params.haveEL3 = true →
    s.inputs.el3IsAArch32 = true → s.inputs.iccMsreSre = false → exec i s = .next t →
    (i.dir = .read → (t.regs[i.rt])[0] = false)
      ∧ (i.dir = .write → t.hsre.sre = s.hsre.sre ∧ t.readView[0] = false)

/-- R16, R21: with EL3 and `GICD_CTLR.DS` 0, DIB and DFB are read-only aliases of ICC_MSRE's bits. -/
def Obligations.BypassBitsAreReadOnlyAliases : Prop :=
  ∀ (i : Instr) (s t : State), s.params.haveEL3 = true → s.inputs.gicdCtlrDs = false → exec i s = .next t →
    (s.params.irqBypassSupported = true →
      (i.dir = .read → (t.regs[i.rt])[2] = s.msreDib)
        ∧ (i.dir = .write → t.msreDib = s.msreDib ∧ t.hsre.dib = s.hsre.dib ∧ t.readView[2] = s.msreDib))
      ∧ (s.params.fiqBypassSupported = true →
        (i.dir = .read → (t.regs[i.rt])[1] = s.msreDfb)
          ∧ (i.dir = .write → t.msreDfb = s.msreDfb ∧ t.hsre.dfb = s.hsre.dfb ∧ t.readView[1] = s.msreDfb))

/-- R17, R22: with EL3 and `GICD_CTLR.DS` 1, DIB and DFB are read/write aliases of ICC_MSRE's bits. -/
def Obligations.BypassBitsAreReadWriteAliases : Prop :=
  ∀ (i : Instr) (s t : State), s.params.haveEL3 = true → s.inputs.gicdCtlrDs = true → exec i s = .next t →
    (s.params.irqBypassSupported = true →
      (i.dir = .read → (t.regs[i.rt])[2] = s.msreDib)
        ∧ (i.dir = .write → t.msreDib = (s.regs[i.rt])[2] ∧ t.hsre.dib = s.hsre.dib))
      ∧ (s.params.fiqBypassSupported = true →
        (i.dir = .read → (t.regs[i.rt])[1] = s.msreDfb)
          ∧ (i.dir = .write → t.msreDfb = (s.regs[i.rt])[1] ∧ t.hsre.dfb = s.hsre.dfb))

/-- R18, R23: without bypass support DIB and DFB are RAO/WI, before any alias. -/
def Obligations.UnsupportedBypassBitsReadOneIgnoreWrites : Prop :=
  ∀ (i : Instr) (s t : State), exec i s = .next t →
    (s.params.irqBypassSupported = false →
      (i.dir = .read → (t.regs[i.rt])[2] = true)
        ∧ (i.dir = .write → t.msreDib = s.msreDib ∧ t.hsre.dib = s.hsre.dib ∧ t.readView[2] = true))
      ∧ (s.params.fiqBypassSupported = false →
        (i.dir = .read → (t.regs[i.rt])[1] = true)
          ∧ (i.dir = .write → t.msreDfb = s.msreDfb ∧ t.hsre.dfb = s.hsre.dfb ∧ t.readView[1] = true))

/-- R12: Enable is RAO/WI where the permission arises and is taken, and an ordinary stored bit everywhere else. -/
def Obligations.EnableIsRaoWiOrStored : Prop :=
  ∀ (i : Instr) (s t : State), exec i s = .next t →
    if s.params.gicSysregOnly && s.params.enableRaoWiWithSre then
      (i.dir = .read → (t.regs[i.rt])[3] = true)
        ∧ (i.dir = .write → t.hsre.enable = s.hsre.enable ∧ t.readView[3] = true)
    else
      (i.dir = .read → ∀ b, s.hsre.enable = .known b → (t.regs[i.rt])[3] = b)
        ∧ (i.dir = .write → t.hsre.enable = .known (s.regs[i.rt])[3] ∧ t.readView[3] = (s.regs[i.rt])[3])

/-- R10 (the spec's decision D11): a hardwired reserved bit reads 0 and ignores writes; a writable one keeps the last
value written. -/
def Obligations.ReservedBits : Prop :=
  ∀ (i : Instr) (s t : State) (j : Fin 28), exec i s = .next t →
    if s.params.res0WritableMask[j] then
      (i.dir = .read → ∀ b, s.hsre.res[j] = .known b → (t.regs[i.rt]).getLsbD (j.val + 4) = b)
        ∧ (i.dir = .write → t.hsre.res[j] = .known ((s.regs[i.rt]).getLsbD (j.val + 4))
          ∧ t.readView.getLsbD (j.val + 4) = (s.regs[i.rt]).getLsbD (j.val + 4))
    else
      (i.dir = .read → (t.regs[i.rt]).getLsbD (j.val + 4) = false)
        ∧ (i.dir = .write → t.hsre.res[j] = s.hsre.res[j] ∧ t.readView.getLsbD (j.val + 4) = false)

/-- R13, R11, R36: while SRE reads 0, Enable acts as 1 and is still stored and read back. -/
def Obligations.EnableActsAsOneWhileSreReadsZero : Prop :=
  ∀ s : State, s.readView[0] = false →
    effectiveEnable s.readView = true
      ∧ Predicate.nsEL1IccSreAccessTrapsToEL2.holdsOf s.readView = false
      ∧ (∀ b, s.hsre.enable = .known b → s.readView[3] = b)
      ∧ ∀ (i : Instr) (t : State), i.dir = .write → exec i s = .next t → t.hsre.enable = .known (s.regs[i.rt])[3]

/-- R58: two reads with nothing between them return the same value, if no cell they read is unknown. -/
def Obligations.TwoReadsAgree : Prop :=
  ∀ (i j : Instr) (s t u : State), View.Known s.view → i.dir = .read → j.dir = .read →
    exec i s = .next t → exec j t = .next u → u.regs[j.rt] = t.regs[i.rt]

/-- R59: a read after a write sees it. With ordinary stored fields it returns the value written, less the hardwired
reserved bits. -/
def Obligations.ReadAfterWriteSeesTheWrite : Prop :=
  ∀ (i j : Instr) (s t u : State), s.params.gicSysregOnly = false → s.params.haveEL3 = false →
    s.params.irqBypassSupported = true → s.params.fiqBypassSupported = true →
    i.dir = .write → j.dir = .read → exec i s = .next t → exec j t = .next u →
    let r := u.regs[j.rt]
    let v := s.regs[i.rt]
    r[0] = v[0] ∧ r[1] = v[1] ∧ r[2] = v[2] ∧ r[3] = v[3]
      ∧ ∀ k : Fin 28, r.getLsbD (k.val + 4) = (s.params.res0WritableMask[k] && v.getLsbD (k.val + 4))

/-! ### Reset and the environment -/

/-- R101: the Warm reset step, from every state. That the action carries values for what the page leaves
unconstrained, and that the window stays, is the model's choice (notes/assumptions/17.md, 18.md). -/
def Obligations.WarmResetStep : Prop :=
  ∀ (s : State) (r : ResetValues) (rest : List Turn), s.schedule = .env (.warmReset r) :: rest →
    let p := s.params
    step s = .next
      { s with
        hsre :=
          { sre := if !p.gicSysregOnly then .known false else s.hsre.sre
            dfb := if p.fiqBypassSupported && !p.haveEL3 then .known false else s.hsre.dfb
            dib := if p.irqBypassSupported && !p.haveEL3 then .known false else s.hsre.dib
            enable := if !(p.gicSysregOnly && p.enableRaoWiWithSre) then .unknown else s.hsre.enable
            res := Vector.ofFn fun i => if p.res0WritableMask[i] then .unknown else s.hsre.res[i] }
        msreDib := if p.haveEL3 then false else s.msreDib
        msreDfb := if p.haveEL3 then false else s.msreDfb
        inputs := r.inputs, regs := r.regs, pc := r.pc, instrSet := r.instrSet, inCondBlock := r.inCondBlock
        schedule := rest }

/-- R50: the read view right after a Warm reset, of any state and at `State.resetOf`. -/
def Obligations.ReadViewAfterWarmReset : Prop :=
  ∀ (s t : State) (r : ResetValues), (t = s.warmReset r ∨ t = State.resetOf s.params r) →
    let p := s.params
    t.readView[0] = p.gicSysregOnly
      ∧ t.readView[1] = !p.fiqBypassSupported
      ∧ t.readView[2] = !p.irqBypassSupported
      ∧ t.readView[3] = (if p.gicSysregOnly && p.enableRaoWiWithSre then true else (Config.drawView t.draws)[3])
      ∧ ∀ i : Fin 28, t.readView.getLsbD (i.val + 4)
          = (p.res0WritableMask[i] && (Config.drawView t.draws).getLsbD (i.val + 4))

/-- R102: any other reset gives the same state as a Warm reset. -/
def Obligations.OtherResetsGiveTheWarmResetState : Prop :=
  ∀ (s : State) (r : ResetValues), s.otherReset r = s.warmReset r

/-- R14, R19, R24, R31, R10: the stored cells at reset, for every implementation. Where R33 gives no such cell, that its
place holds 0 is the model's choice (notes/assumptions/5.md). -/
def Obligations.StoredCellsAtReset : Prop :=
  ∀ (p : Params) (r : ResetValues),
    let h := (State.resetOf p r).hsre
    h.sre = .known false ∧ h.dfb = .known false ∧ h.dib = .known false
      ∧ ((p.gicSysregOnly && p.enableRaoWiWithSre) = false → h.enable = .unknown)
      ∧ ∀ i : Fin 28, p.res0WritableMask[i] = true → h.res[i] = .unknown

/-- R38: memory-mapped use, where storage is shared and where it is not. That an action which is not enabled is
refused is the model's choice (notes/assumptions/19.md). -/
def Obligations.MmioUseMakesTheCellsUnknown : Prop :=
  ∀ s : State,
    (s.params.sharedMmioSysreg = false → envStep .mmioUse s = .next s)
      ∧ (s.params.sharedMmioSysreg = true → s.readView[0] = true → envStep .mmioUse s = .refused .actionNotEnabled)
      ∧ (s.params.sharedMmioSysreg = true → s.readView[0] = false →
        ∃ t, envStep .mmioUse s = .next t
          ∧ (enableExists s.params = true → t.hsre.enable = .unknown)
          ∧ (dibExists s.params = true → t.hsre.dib = .unknown)
          ∧ (dfbExists s.params = true → t.hsre.dfb = .unknown)
          ∧ (∀ i : Fin 28, s.params.res0WritableMask[i] = true → t.hsre.res[i] = .unknown)
          ∧ t.hsre.sre = (if s.params.mmioHavocIncludesSre && sreExists s.params then .unknown else s.hsre.sre)
          ∧ t.msreDib = s.msreDib ∧ t.msreDfb = s.msreDfb ∧ t.regs = s.regs ∧ t.inputs = s.inputs ∧ t.pc = s.pc)

/-- R110: what the three input-changing actions do, where they are enabled, and where they are not. That an action
which is not enabled, or breaks the assumption of D22, is refused is the model's choice (notes/assumptions/12.md,
19.md). -/
def Obligations.InputActionsChangeOnlyTheirInputs : Prop :=
  ∀ s : State,
    (∀ ds, envStep (.distributorWritesDS ds) s = .next { s with inputs := { s.inputs with gicdCtlrDs := ds } })
      ∧ (∀ v : LevelValues, envStep (.changeOfLevelOrDebug v) s = .next
          { s with
            inputs :=
              { el := v.el, el2Enabled := v.el2Enabled, el2IsAArch32 := v.el2IsAArch32
                el3IsAArch32 := v.el3IsAArch32, hstrT12 := v.hstrT12, hstrEl2T12 := v.hstrEl2T12
                halted := v.halted, edscrSdd := v.edscrSdd
                iccSreEl3Enable := s.inputs.iccSreEl3Enable, iccSreEl3Sre := s.inputs.iccSreEl3Sre
                iccMsreEnable := s.inputs.iccMsreEnable, iccMsreSre := s.inputs.iccMsreSre
                gicdCtlrDs := s.inputs.gicdCtlrDs } })
      ∧ ∀ v : El3Values,
          (s.params.haveEL3 = false → envStep (.el3WritesMsre v) s = .refused .actionNotEnabled)
            ∧ (s.params.haveEL3 = true →
              (s.inputs.iccMsreSre = true ∧ v.iccMsreSre = false)
                ∨ (s.inputs.iccSreEl3Sre = true ∧ v.iccSreEl3Sre = false) →
              envStep (.el3WritesMsre v) s = .refused .environmentAssumption)
            ∧ (s.params.haveEL3 = true → (s.inputs.iccMsreSre = true → v.iccMsreSre = true) →
              (s.inputs.iccSreEl3Sre = true → v.iccSreEl3Sre = true) →
              envStep (.el3WritesMsre v) s = .next
                { s with
                  msreDib := v.msreDib, msreDfb := v.msreDfb
                  inputs :=
                    { s.inputs with
                      iccMsreEnable := v.iccMsreEnable, iccMsreSre := v.iccMsreSre
                      iccSreEl3Enable := v.iccSreEl3Enable, iccSreEl3Sre := v.iccSreEl3Sre } })

/-- R32, R35, R27, R110 (the spec's decision D22): a write of `v` through ICC_SRE_EL2, in every state, at every level
and whether or not an `MCR` would be allowed there. It is refused exactly where it would change SRE from 1 to 0, and
changes the fields of R35 otherwise, the program counter staying; and where the `MCR` of the same value is allowed, the
two agree but for the program counter. That it moves the counter `draws` and opens the window is the model's choice
(notes/assumptions/4.md, 17.md). -/
def Obligations.AArch64WriteIsAWriteOfTheSameStorage : Prop :=
  ∀ (s : State) (v : Word),
    let p := s.params
    (envStep (.aarch64WriteSreEl2 v) s = .refused .unpredictableSre1To0 ↔ ClearsSre s v)
      ∧ (¬ClearsSre s v → envStep (.aarch64WriteSreEl2 v) s = .next
          { s with
            hsre :=
              { sre := if p.gicSysregOnly || sreRazWi p s.inputs then s.hsre.sre else .known v[0]
                dfb := if p.fiqBypassSupported && !p.haveEL3 then .known v[1] else s.hsre.dfb
                dib := if p.irqBypassSupported && !p.haveEL3 then .known v[2] else s.hsre.dib
                enable := if p.gicSysregOnly && p.enableRaoWiWithSre then s.hsre.enable else .known v[3]
                res := Vector.ofFn fun i =>
                  if p.res0WritableMask[i] then .known (v.getLsbD (i.val + 4)) else s.hsre.res[i] }
            msreDib := if p.irqBypassSupported && p.haveEL3 && s.inputs.gicdCtlrDs then v[2] else s.msreDib
            msreDfb := if p.fiqBypassSupported && p.haveEL3 && s.inputs.gicdCtlrDs then v[1] else s.msreDfb
            window := s.view :: s.window
            draws := s.draws + 1 })
      ∧ ∀ t : Reg, MayAccess s → s.regs[t] = v →
        (∀ u, exec (.mcrA32 t) s = .next u → envStep (.aarch64WriteSreEl2 v) s = .next { u with pc := s.pc })
          ∧ (exec (.mcrA32 t) s = .refused .unpredictableSre1To0 →
            envStep (.aarch64WriteSreEl2 v) s = .refused .unpredictableSre1To0)

/-- R58, R110: the stored cells change only by an `MCR` at EL2 or EL3, a Warm reset, memory-mapped use while SRE reads
0, or a write through ICC_SRE_EL2. -/
def Obligations.StoredCellsChangeOnlyByTheNamedEvents : Prop :=
  ∀ s t : State, step s = .next t → t.hsre ≠ s.hsre →
    (PeTurn s ∧ (s.inputs.el = .el2 ∨ s.inputs.el = .el3) ∧ ∃ i, fetch s = .ok i ∧ i.dir = .write)
      ∨ (∃ r rest, s.schedule = .env (.warmReset r) :: rest)
      ∨ (∃ rest, s.schedule = .env .mmioUse :: rest ∧ s.params.sharedMmioSysreg = true ∧ s.readView[0] = false)
      ∨ ∃ v rest, s.schedule = .env (.aarch64WriteSreEl2 v) :: rest

/-- R59, R110: with no environment action to come, only an `MCR` changes what is stored, nothing changes the inputs,
and no environment action is to come after the step either. -/
def Obligations.QuietMachineChangesOnlyByAWrite : Prop :=
  ∀ s t : State, Quiet s = true → step s = .next t →
    Quiet t = true ∧ t.inputs = s.inputs
      ∧ (t.hsre ≠ s.hsre ∨ t.msreDib ≠ s.msreDib ∨ t.msreDfb ≠ s.msreDfb → ∃ i, fetch s = .ok i ∧ i.dir = .write)

/-- R61, 00_scope.md section 4: the program text and the parameters are fixed for a run. -/
def Obligations.ProgramAndParametersAreFixed : Prop :=
  ∀ s t : State, step s = .next t → t.program = s.program ∧ t.params = s.params

/-! ### What the value says to the rest of the machine -/

/-- R36, R37: the exported predicates of a value. -/
def Obligations.ExportedPredicatesOfAValue : Prop :=
  ∀ v : Word,
    effectiveEnable v = (if v[0] = false then true else v[3])
      ∧ Predicate.sysRegInterfaceEnabledForEL2.holdsOf v = (v[0] == true)
      ∧ Predicate.otherGicSysRegAccessUndefined.holdsOf v = (v[0] == false)
      ∧ Predicate.nsEL1IccSreAccessTrapsToEL2.holdsOf v = (effectiveEnable v == false)
      ∧ Predicate.irqBypassEnabled.holdsOf v = (v[2] == false)
      ∧ Predicate.fiqBypassEnabled.holdsOf v = (v[1] == false)

/-- R107: after a write each predicate may have its old or its new value, and after the context synchronisation event
only the new one. The list `window` and the turn that ends it are the model's choice (notes/assumptions/17.md). -/
def Obligations.PredicatesAreOldOrNewUntilSynchronised : Prop :=
  ∀ (i : Instr) (s t : State), i.dir = .write → exec i s = .next t → ∀ (q : Predicate) (d : Word),
    q.mayBe (q.holdsOf (s.view.word d)) t = true
      ∧ q.mayBe (q.holdsOf (t.view.word d)) t = true
      ∧ ∀ b, q.mayBe b t.contextSync = true → ∃ d', q.holdsOf (t.view.word d') = b

/-! ### The machine -/

/-- R6 (the spec's decision D17): where a clause of the page gives a bit two values, the PE's turn is refused. That
the refusal comes at the PE's turn is the model's choice (notes/assumptions/11.md). -/
def Obligations.BrokenLaunchPremiseIsRefused : Prop :=
  ∀ s : State, PeTurn s →
    (s.params.gicSysregOnly = true ∧ s.params.haveEL3 = true
        ∧ ((s.inputs.el3IsAArch32 = false ∧ s.inputs.iccSreEl3Sre = false)
          ∨ (s.inputs.el3IsAArch32 = true ∧ s.inputs.iccMsreSre = false)))
      ∨ (s.params.irqBypassSupported = false ∧ s.params.haveEL3 = true ∧ s.msreDib = false)
      ∨ (s.params.fiqBypassSupported = false ∧ s.params.haveEL3 = true ∧ s.msreDfb = false) →
    step s = .refused .launchPremise

/-- What a step does with each kind of turn. On the PE's turn it runs the instruction decoded from the program text at
the program counter, on the state with that turn taken off the schedule; on the environment's turn it takes that one
action (R110); on a context synchronisation it empties the window (R107). The schedule and the window are the model's
choice (notes/assumptions/16.md, 17.md), and so is that a halted PE fetches as any other (notes/assumptions/30.md). -/
def Obligations.StepRunsTheDecodedInstruction : Prop :=
  (∀ (s : State) (w : Word) (i : Instr), PeTurn s → s.launchPremise = true →
    Program.lookup s.program s.pc.toNat = some w → decode s.instrSet s.inCondBlock w = .ok i →
    step s = exec i { s with schedule := s.schedule.tail })
    ∧ (∀ (s : State) (a : EnvAction) (rest : List Turn), s.schedule = .env a :: rest →
      step s = envStep a { s with schedule := rest })
    ∧ ∀ (s : State) (rest : List Turn), s.schedule = .contextSync :: rest →
      step s = .next { s with schedule := rest, window := [] }

/-- An instruction placed for the next step is the one the next step runs, whatever turns are scheduled. The placing
is the model's choice (notes/assumptions/9.md), and so is that a halted PE fetches as any other
(notes/assumptions/30.md). -/
def Obligations.PlacedWordRunsNext : Prop :=
  ∀ (s : State) (nbits w : Nat) (i : Instr), s.launchPremise = true → decodeTableWord nbits w = some i →
    step (s.withFetchWord nbits w) = exec i { s.withFetchWord nbits w with schedule := s.schedule }

/-- R33, R61: the program text stays in its canonical form and no cell that does not exist ever holds anything. That
an absent cell holds 0 is the model's choice (notes/assumptions/5.md). -/
def Obligations.EveryStepKeepsInv : Prop :=
  ∀ s t : State, Inv s → step s = .next t → Inv t

/-- The invariant holds at reset, for every implementation and whatever the surrounding machine supplies. -/
def Obligations.InvAtReset : Prop :=
  Inv State.reset ∧ ∀ (p : Params) (r : ResetValues), Inv (State.resetOf p r)

/-- R27, R106, R108: once SRE is known to read 1, no step takes it away but a Warm reset or a change of EL3's
Execution state. -/
def Obligations.SreStaysOne : Prop :=
  ∀ s t : State, SreIsOne s → step s = .next t →
    (∀ r rest, s.schedule ≠ .env (.warmReset r) :: rest) →
    (∀ v rest, s.schedule = .env (.changeOfLevelOrDebug v) :: rest → v.el3IsAArch32 = s.inputs.el3IsAArch32) →
    SreIsOne t

/-- `SreIsOne` is what a read returns: while it holds, every read puts 1 in bit 0 of `R[t]`. -/
def Obligations.SreIsOneIsReadAsOne : Prop :=
  ∀ (i : Instr) (s t : State), SreIsOne s → i.dir = .read → exec i s = .next t → (t.regs[i.rt])[0] = true
end

