-- ==== Sys2Proof/Laws/State.lean ====
section
/-! SUPPORT. One lemma per field per update of the state, so that no proof unfolds a record update. -/

namespace Sys2Proof.Machine.State

variable (s : State)

/-- Reading `R[t]`. -/
@[simp] theorem reg_eq (t : Reg) : s.reg t = s.regs[t] := rfl

/-! ### `setReg` -/

@[simp] theorem setReg_params (t : Reg) (v : Word) : (s.setReg t v).params = s.params := rfl
@[simp] theorem setReg_inputs (t : Reg) (v : Word) : (s.setReg t v).inputs = s.inputs := rfl
@[simp] theorem setReg_hsre (t : Reg) (v : Word) : (s.setReg t v).hsre = s.hsre := rfl
@[simp] theorem setReg_msreDib (t : Reg) (v : Word) : (s.setReg t v).msreDib = s.msreDib := rfl
@[simp] theorem setReg_msreDfb (t : Reg) (v : Word) : (s.setReg t v).msreDfb = s.msreDfb := rfl
@[simp] theorem setReg_regs (t : Reg) (v : Word) : (s.setReg t v).regs = s.regs.set t v := rfl
@[simp] theorem setReg_pc (t : Reg) (v : Word) : (s.setReg t v).pc = s.pc := rfl
@[simp] theorem setReg_instrSet (t : Reg) (v : Word) : (s.setReg t v).instrSet = s.instrSet := rfl
@[simp] theorem setReg_inCondBlock (t : Reg) (v : Word) : (s.setReg t v).inCondBlock = s.inCondBlock := rfl
@[simp] theorem setReg_program (t : Reg) (v : Word) : (s.setReg t v).program = s.program := rfl
@[simp] theorem setReg_schedule (t : Reg) (v : Word) : (s.setReg t v).schedule = s.schedule := rfl
@[simp] theorem setReg_window (t : Reg) (v : Word) : (s.setReg t v).window = s.window := rfl
@[simp] theorem setReg_draws (t : Reg) (v : Word) : (s.setReg t v).draws = s.draws := rfl

/-! ### `drawn` -/

@[simp] theorem drawn_params : (s.drawn).params = s.params := rfl
@[simp] theorem drawn_inputs : (s.drawn).inputs = s.inputs := rfl
@[simp] theorem drawn_hsre : (s.drawn).hsre = s.hsre := rfl
@[simp] theorem drawn_msreDib : (s.drawn).msreDib = s.msreDib := rfl
@[simp] theorem drawn_msreDfb : (s.drawn).msreDfb = s.msreDfb := rfl
@[simp] theorem drawn_regs : (s.drawn).regs = s.regs := rfl
@[simp] theorem drawn_pc : (s.drawn).pc = s.pc := rfl
@[simp] theorem drawn_instrSet : (s.drawn).instrSet = s.instrSet := rfl
@[simp] theorem drawn_inCondBlock : (s.drawn).inCondBlock = s.inCondBlock := rfl
@[simp] theorem drawn_program : (s.drawn).program = s.program := rfl
@[simp] theorem drawn_schedule : (s.drawn).schedule = s.schedule := rfl
@[simp] theorem drawn_window : (s.drawn).window = s.window := rfl
@[simp] theorem drawn_draws : (s.drawn).draws = s.draws + 1 := rfl

/-! ### `completed` -/

@[simp] theorem completed_params : (s.completed).params = s.params := rfl
@[simp] theorem completed_inputs : (s.completed).inputs = s.inputs := rfl
@[simp] theorem completed_hsre : (s.completed).hsre = s.hsre := rfl
@[simp] theorem completed_msreDib : (s.completed).msreDib = s.msreDib := rfl
@[simp] theorem completed_msreDfb : (s.completed).msreDfb = s.msreDfb := rfl
@[simp] theorem completed_regs : (s.completed).regs = s.regs := rfl
@[simp] theorem completed_pc : (s.completed).pc = s.pc + 4 := rfl
@[simp] theorem completed_instrSet : (s.completed).instrSet = s.instrSet := rfl
@[simp] theorem completed_inCondBlock : (s.completed).inCondBlock = s.inCondBlock := rfl
@[simp] theorem completed_program : (s.completed).program = s.program := rfl
@[simp] theorem completed_schedule : (s.completed).schedule = s.schedule := rfl
@[simp] theorem completed_window : (s.completed).window = s.window := rfl
@[simp] theorem completed_draws : (s.completed).draws = s.draws + 1 := rfl

/-! ### `applyWrite` -/

@[simp] theorem applyWrite_params (v : Word) : (s.applyWrite v).params = s.params := rfl
@[simp] theorem applyWrite_inputs (v : Word) : (s.applyWrite v).inputs = s.inputs := rfl
@[simp] theorem applyWrite_hsre (v : Word) : (s.applyWrite v).hsre = s.hsre.write s.params s.inputs v := rfl
@[simp] theorem applyWrite_msreDib (v : Word) : (s.applyWrite v).msreDib =
    if aliasWritable s.params s.inputs s.params.irqBypassSupported then v[2] else s.msreDib :=
  rfl
@[simp] theorem applyWrite_msreDfb (v : Word) : (s.applyWrite v).msreDfb =
    if aliasWritable s.params s.inputs s.params.fiqBypassSupported then v[1] else s.msreDfb :=
  rfl
@[simp] theorem applyWrite_regs (v : Word) : (s.applyWrite v).regs = s.regs := rfl
@[simp] theorem applyWrite_pc (v : Word) : (s.applyWrite v).pc = s.pc := rfl
@[simp] theorem applyWrite_instrSet (v : Word) : (s.applyWrite v).instrSet = s.instrSet := rfl
@[simp] theorem applyWrite_inCondBlock (v : Word) : (s.applyWrite v).inCondBlock = s.inCondBlock := rfl
@[simp] theorem applyWrite_program (v : Word) : (s.applyWrite v).program = s.program := rfl
@[simp] theorem applyWrite_schedule (v : Word) : (s.applyWrite v).schedule = s.schedule := rfl
@[simp] theorem applyWrite_window (v : Word) : (s.applyWrite v).window = s.window := rfl
@[simp] theorem applyWrite_draws (v : Word) : (s.applyWrite v).draws = s.draws := rfl

/-! ### `warmReset` -/

@[simp] theorem warmReset_params (r : ResetValues) : (s.warmReset r).params = s.params := rfl
@[simp] theorem warmReset_inputs (r : ResetValues) : (s.warmReset r).inputs = r.inputs := rfl
@[simp] theorem warmReset_hsre (r : ResetValues) : (s.warmReset r).hsre = s.hsre.warmReset s.params := rfl
@[simp] theorem warmReset_msreDib (r : ResetValues) : (s.warmReset r).msreDib =
    if s.params.haveEL3 then false else s.msreDib :=
  rfl
@[simp] theorem warmReset_msreDfb (r : ResetValues) : (s.warmReset r).msreDfb =
    if s.params.haveEL3 then false else s.msreDfb :=
  rfl
@[simp] theorem warmReset_regs (r : ResetValues) : (s.warmReset r).regs = r.regs := rfl
@[simp] theorem warmReset_pc (r : ResetValues) : (s.warmReset r).pc = r.pc := rfl
@[simp] theorem warmReset_instrSet (r : ResetValues) : (s.warmReset r).instrSet = r.instrSet := rfl
@[simp] theorem warmReset_inCondBlock (r : ResetValues) : (s.warmReset r).inCondBlock = r.inCondBlock := rfl
@[simp] theorem warmReset_program (r : ResetValues) : (s.warmReset r).program = s.program := rfl
@[simp] theorem warmReset_schedule (r : ResetValues) : (s.warmReset r).schedule = s.schedule := rfl
@[simp] theorem warmReset_window (r : ResetValues) : (s.warmReset r).window = s.window := rfl
@[simp] theorem warmReset_draws (r : ResetValues) : (s.warmReset r).draws = s.draws := rfl

/-! ### `mmioUsed` -/

@[simp] theorem mmioUsed_params : (s.mmioUsed).params = s.params := rfl
@[simp] theorem mmioUsed_inputs : (s.mmioUsed).inputs = s.inputs := rfl
@[simp] theorem mmioUsed_hsre : (s.mmioUsed).hsre = s.hsre.havoc s.params s.params.mmioHavocIncludesSre := rfl
@[simp] theorem mmioUsed_msreDib : (s.mmioUsed).msreDib = s.msreDib := rfl
@[simp] theorem mmioUsed_msreDfb : (s.mmioUsed).msreDfb = s.msreDfb := rfl
@[simp] theorem mmioUsed_regs : (s.mmioUsed).regs = s.regs := rfl
@[simp] theorem mmioUsed_pc : (s.mmioUsed).pc = s.pc := rfl
@[simp] theorem mmioUsed_instrSet : (s.mmioUsed).instrSet = s.instrSet := rfl
@[simp] theorem mmioUsed_inCondBlock : (s.mmioUsed).inCondBlock = s.inCondBlock := rfl
@[simp] theorem mmioUsed_program : (s.mmioUsed).program = s.program := rfl
@[simp] theorem mmioUsed_schedule : (s.mmioUsed).schedule = s.schedule := rfl
@[simp] theorem mmioUsed_window : (s.mmioUsed).window = s.window := rfl
@[simp] theorem mmioUsed_draws : (s.mmioUsed).draws = s.draws + 1 := rfl

/-! ### `withEl3` -/

@[simp] theorem withEl3_params (v : El3Values) : (s.withEl3 v).params = s.params := rfl
@[simp] theorem withEl3_hsre (v : El3Values) : (s.withEl3 v).hsre = s.hsre := rfl
@[simp] theorem withEl3_msreDib (v : El3Values) : (s.withEl3 v).msreDib = v.msreDib := rfl
@[simp] theorem withEl3_msreDfb (v : El3Values) : (s.withEl3 v).msreDfb = v.msreDfb := rfl
@[simp] theorem withEl3_regs (v : El3Values) : (s.withEl3 v).regs = s.regs := rfl
@[simp] theorem withEl3_pc (v : El3Values) : (s.withEl3 v).pc = s.pc := rfl
@[simp] theorem withEl3_instrSet (v : El3Values) : (s.withEl3 v).instrSet = s.instrSet := rfl
@[simp] theorem withEl3_inCondBlock (v : El3Values) : (s.withEl3 v).inCondBlock = s.inCondBlock := rfl
@[simp] theorem withEl3_program (v : El3Values) : (s.withEl3 v).program = s.program := rfl
@[simp] theorem withEl3_schedule (v : El3Values) : (s.withEl3 v).schedule = s.schedule := rfl
@[simp] theorem withEl3_window (v : El3Values) : (s.withEl3 v).window = s.window := rfl
@[simp] theorem withEl3_draws (v : El3Values) : (s.withEl3 v).draws = s.draws := rfl
@[simp] theorem withEl3_inputs_el (v : El3Values) : (s.withEl3 v).inputs.el = s.inputs.el := rfl
@[simp] theorem withEl3_inputs_el2Enabled (v : El3Values) : (s.withEl3 v).inputs.el2Enabled = s.inputs.el2Enabled := rfl
@[simp] theorem withEl3_inputs_el2IsAArch32 (v : El3Values) : (s.withEl3 v).inputs.el2IsAArch32 = s.inputs.el2IsAArch32 := rfl
@[simp] theorem withEl3_inputs_el3IsAArch32 (v : El3Values) : (s.withEl3 v).inputs.el3IsAArch32 = s.inputs.el3IsAArch32 := rfl
@[simp] theorem withEl3_inputs_hstrT12 (v : El3Values) : (s.withEl3 v).inputs.hstrT12 = s.inputs.hstrT12 := rfl
@[simp] theorem withEl3_inputs_hstrEl2T12 (v : El3Values) : (s.withEl3 v).inputs.hstrEl2T12 = s.inputs.hstrEl2T12 := rfl
@[simp] theorem withEl3_inputs_halted (v : El3Values) : (s.withEl3 v).inputs.halted = s.inputs.halted := rfl
@[simp] theorem withEl3_inputs_edscrSdd (v : El3Values) : (s.withEl3 v).inputs.edscrSdd = s.inputs.edscrSdd := rfl
@[simp] theorem withEl3_inputs_gicdCtlrDs (v : El3Values) : (s.withEl3 v).inputs.gicdCtlrDs = s.inputs.gicdCtlrDs := rfl
@[simp] theorem withEl3_inputs_iccMsreEnable (v : El3Values) : (s.withEl3 v).inputs.iccMsreEnable = v.iccMsreEnable := rfl
@[simp] theorem withEl3_inputs_iccMsreSre (v : El3Values) : (s.withEl3 v).inputs.iccMsreSre = v.iccMsreSre := rfl
@[simp] theorem withEl3_inputs_iccSreEl3Enable (v : El3Values) : (s.withEl3 v).inputs.iccSreEl3Enable = v.iccSreEl3Enable := rfl
@[simp] theorem withEl3_inputs_iccSreEl3Sre (v : El3Values) : (s.withEl3 v).inputs.iccSreEl3Sre = v.iccSreEl3Sre := rfl

/-! ### `contextSync` -/

@[simp] theorem contextSync_params : (s.contextSync).params = s.params := rfl
@[simp] theorem contextSync_inputs : (s.contextSync).inputs = s.inputs := rfl
@[simp] theorem contextSync_hsre : (s.contextSync).hsre = s.hsre := rfl
@[simp] theorem contextSync_msreDib : (s.contextSync).msreDib = s.msreDib := rfl
@[simp] theorem contextSync_msreDfb : (s.contextSync).msreDfb = s.msreDfb := rfl
@[simp] theorem contextSync_regs : (s.contextSync).regs = s.regs := rfl
@[simp] theorem contextSync_pc : (s.contextSync).pc = s.pc := rfl
@[simp] theorem contextSync_instrSet : (s.contextSync).instrSet = s.instrSet := rfl
@[simp] theorem contextSync_inCondBlock : (s.contextSync).inCondBlock = s.inCondBlock := rfl
@[simp] theorem contextSync_program : (s.contextSync).program = s.program := rfl
@[simp] theorem contextSync_schedule : (s.contextSync).schedule = s.schedule := rfl
@[simp] theorem contextSync_window : (s.contextSync).window = [] := rfl
@[simp] theorem contextSync_draws : (s.contextSync).draws = s.draws := rfl

end Sys2Proof.Machine.State
end

