-- ==== Sys2Proof/Laws/Program.lean ====
section
/-! SUPPORT. The program text: a read after a placement, and the canonical form. -/

namespace Sys2Proof.Machine

theorem Program.lookup_place_same (l : List (Nat × Word)) (a : Nat) (w : Word) :
    Program.lookup (Program.place l a w) a = some w := by
  induction l with
  | nil => simp [Program.place, Program.lookup]
  | cons c rest ih =>
    obtain ⟨b, x⟩ := c
    simp only [Program.place]
    split
    · simp [Program.lookup]
    · split
      · simp [Program.lookup]
      · simp [Program.lookup, *]

theorem Program.lookup_place_other (l : List (Nat × Word)) {a c : Nat} (w : Word) (h : c ≠ a) :
    Program.lookup (Program.place l a w) c = Program.lookup l c := by
  induction l with
  | nil => simp [Program.place, Program.lookup, h]
  | cons d rest ih =>
    obtain ⟨b, x⟩ := d
    simp only [Program.place]
    split
    · simp [Program.lookup, h]
    · split
      · rename_i hab
        subst hab
        simp [Program.lookup, h]
      · simp [Program.lookup, ih]

/-- Every address of a placed text is the placed one or was there before. -/
theorem Program.mem_place {l : List (Nat × Word)} {a : Nat} {w : Word} {c : Nat × Word}
    (h : c ∈ Program.place l a w) : c.1 = a ∨ c ∈ l := by
  induction l with
  | nil => simp_all [Program.place]
  | cons d rest ih =>
    obtain ⟨b, x⟩ := d
    simp only [Program.place] at h
    split at h
    · rcases List.mem_cons.mp h with rfl | h
      · exact .inl rfl
      · exact .inr h
    · split at h
      · rcases List.mem_cons.mp h with rfl | h
        · exact .inl rfl
        · exact .inr (List.mem_cons_of_mem _ h)
      · rcases List.mem_cons.mp h with rfl | h
        · exact .inr List.mem_cons_self
        · exact (ih h).imp_right (List.mem_cons_of_mem _)

theorem Program.wf_cons {c : Nat × Word} {rest : List (Nat × Word)} :
    Program.wf (c :: rest) = true ↔ (∀ d ∈ rest, c.1 < d.1) ∧ Program.wf rest = true := by
  simp [Program.wf]

/-- Placing an instruction keeps the canonical form. -/
theorem Program.wf_place {l : List (Nat × Word)} (a : Nat) (w : Word) (h : Program.wf l = true) :
    Program.wf (Program.place l a w) = true := by
  induction l with
  | nil => simp [Program.place, Program.wf]
  | cons d rest ih =>
    obtain ⟨b, x⟩ := d
    obtain ⟨hb, hr⟩ := Program.wf_cons.mp h
    simp only [Program.place]
    split
    · rename_i hlt
      refine Program.wf_cons.mpr ⟨fun c hc => ?_, h⟩
      rcases List.mem_cons.mp hc with rfl | hc
      · exact hlt
      · exact Nat.lt_trans hlt (hb c hc)
    · split
      · rename_i hab
        subst hab
        exact Program.wf_cons.mpr ⟨hb, hr⟩
      · refine Program.wf_cons.mpr ⟨fun c hc => ?_, ih hr⟩
        rcases Program.mem_place hc with h1 | h1
        · simp only [h1]; omega
        · exact hb c h1

end Sys2Proof.Machine
end

