-- ==== Sys2Proof/Laws/View.lean ====
section
/-! SUPPORT. The bits of a view's value, one lemma each; the cells of the views and of the updates of `S`. -/

namespace Sys2Proof.Machine

@[simp] theorem Cell.resolve_known (b d : Bool) : (Cell.known b).resolve d = b := rfl

@[simp] theorem Cell.resolve_unknown (d : Bool) : Cell.unknown.resolve d = d := rfl

@[simp] theorem Cell.store_true (c d : Cell) : c.store true d = d := rfl

@[simp] theorem Cell.store_false (c d : Cell) : c.store false d = c := rfl

@[simp] theorem View.word_sre (v : View) (d : Word) : (v.word d)[0] = v.sre.resolve d[0] := by
  simp only [View.word, BitVec.getElem_cast, BitVec.getElem_append]
  simp

@[simp] theorem View.word_dfb (v : View) (d : Word) : (v.word d)[1] = v.dfb.resolve d[1] := by
  simp only [View.word, BitVec.getElem_cast, BitVec.getElem_append]
  simp

@[simp] theorem View.word_dib (v : View) (d : Word) : (v.word d)[2] = v.dib.resolve d[2] := by
  simp only [View.word, BitVec.getElem_cast, BitVec.getElem_append]
  simp

@[simp] theorem View.word_enable (v : View) (d : Word) : (v.word d)[3] = v.enable.resolve d[3] := by
  simp only [View.word, BitVec.getElem_cast, BitVec.getElem_append]
  simp

theorem View.word_res (v : View) (d : Word) (i : Fin 28) :
    (v.word d).getLsbD (i.val + 4) = v.res[i].resolve (d.getLsbD (i.val + 4)) := by
  have h : i.val + 4 < 32 := by omega
  simp only [View.word, BitVec.getLsbD_cast, BitVec.getLsbD_append]
  simp

/-- The SRE bit alone is bit 0 of the read view. -/
theorem State.readView_sre (s : State) : s.readView[0] = s.sreRead := by
  simp [State.readView, State.sreRead]

@[simp] theorem view_res (p : Params) (e : Inputs) (h : Hsre) (a b : Bool) (i : Fin 28) :
    (view p e h a b).res[i] = if p.res0WritableMask[i] then h.res[i] else .known false := by
  simp [view]

@[simp] theorem Hsre.write_res (p : Params) (e : Inputs) (h : Hsre) (v : Word) (i : Fin 28) :
    (h.write p e v).res[i] = h.res[i].store p.res0WritableMask[i] (.known (v.getLsbD (i.val + 4))) := by
  simp [Hsre.write]

@[simp] theorem Hsre.warmReset_res (p : Params) (h : Hsre) (i : Fin 28) :
    (h.warmReset p).res[i] = h.res[i].store p.res0WritableMask[i] .unknown := by
  simp [Hsre.warmReset]

@[simp] theorem Hsre.havoc_res (p : Params) (b : Bool) (h : Hsre) (i : Fin 28) :
    (h.havoc p b).res[i] = h.res[i].store p.res0WritableMask[i] .unknown := by
  simp [Hsre.havoc]

@[simp] theorem Hsre.reset_res (p : Params) (i : Fin 28) :
    (Hsre.reset p).res[i] = Cell.atReset p.res0WritableMask[i] .unknown := by
  simp [Hsre.reset]

end Sys2Proof.Machine
end

