-- ==== Sys2Proof/Laws/Access.lean ====
section
/-! SUPPORT. What each shared operation can answer, said once: the check, taking an exception, the write update, the
two accesses, the environment's actions, the fetch and the step. -/

namespace Sys2Proof.Machine

/-! ### Taking an exception -/

theorem takeException_ne_next (x : Exc) (a : Access) (t : State) : takeException x a ≠ .next t := by
  cases x <;> simp [takeException]

theorem takeException_ne_refused (x : Exc) (a : Access) (r : Refusal) : takeException x a ≠ .refused r := by
  cases x <;> simp [takeException]

/-- Different exceptions, or different accesses, are different outcomes. -/
theorem takeException_inj {x y : Exc} {a b : Access} : takeException x a = takeException y b ↔ x = y ∧ a = b := by
  cases x <;> cases y <;> simp [takeException]

/-! ### The write update -/

/-- If a write is not the UNPREDICTABLE case, the fields are updated and the old view is kept. -/
theorem writeUpdate_cases {s t : State} {v : Word} (h : s.writeUpdate v = some t) :
    ¬(s.sreRead = true ∧ (s.applyWrite v).sreRead = false)
      ∧ t = { s.applyWrite v with window := s.view :: s.window } := by
  simp only [State.writeUpdate] at h
  split at h
  · cases h
  · rename_i hn
    exact ⟨by simpa using hn, by simpa using h.symm⟩

/-- A write is refused exactly where SRE reads 1 before and 0 after it. -/
theorem writeUpdate_eq_none {s : State} {v : Word} :
    s.writeUpdate v = none ↔ s.sreRead = true ∧ (s.applyWrite v).sreRead = false := by
  simp [State.writeUpdate]

/-- A write that does not change SRE from 1 to 0 is the updated state, its earlier view kept for the window. -/
theorem writeUpdate_eq_some {s : State} {v : Word} (h : ¬(s.sreRead = true ∧ (s.applyWrite v).sreRead = false)) :
    s.writeUpdate v = some { s.applyWrite v with window := s.view :: s.window } := by
  unfold State.writeUpdate
  rw [if_neg (by simpa using h)]

/-- The SRE bit as read, clause by clause (R28 to R30). -/
theorem sreRead_eq (s : State) :
    s.sreRead = if sreRaoWi s.params then true else if sreRazWi s.params s.inputs then false
      else s.hsre.sre.resolve (Config.drawView s.draws)[0] := by
  simp only [State.sreRead, State.view, view]
  split
  · rfl
  · split <;> rfl

/-- The SRE bit as read after a write. -/
theorem sreRead_applyWrite (s : State) (v : Word) :
    (s.applyWrite v).sreRead = if sreRaoWi s.params then true
      else if sreRazWi s.params s.inputs then false else v[0] := by
  rw [sreRead_eq]
  simp only [State.applyWrite_params, State.applyWrite_inputs, State.applyWrite_hsre, Hsre.write]
  by_cases h : sreRaoWi s.params = true
  · simp [h]
  · by_cases h' : sreRazWi s.params s.inputs = true <;> simp [h, h']

/-! ### The two accesses -/

theorem readAccess_allow {rt : Reg} {s : State} (h : s.check = .allow) :
    readAccess rt s = .next (s.setReg rt s.readView).completed := by
  simp [readAccess, h]

theorem writeAccess_none {rt : Reg} {s : State} (h : s.check = .allow) (hw : s.writeUpdate (s.reg rt) = none) :
    writeAccess rt s = .refused .unpredictableSre1To0 := by
  unfold writeAccess
  rw [h]
  dsimp only
  rw [hw]

theorem writeAccess_some {rt : Reg} {s t : State} (h : s.check = .allow) (hw : s.writeUpdate (s.reg rt) = some t) :
    writeAccess rt s = .next t.completed := by
  unfold writeAccess
  rw [h]
  dsimp only
  rw [hw]

theorem readAccess_raise {rt : Reg} {s : State} {x : Exc} (h : s.check = .raise x) :
    readAccess rt s = takeException x { dir := .read, rt := rt } := by
  simp [readAccess, h]

theorem writeAccess_raise {rt : Reg} {s : State} {x : Exc} (h : s.check = .raise x) :
    writeAccess rt s = takeException x { dir := .write, rt := rt } := by
  simp [writeAccess, h]

/-- If a read answers a next state, it was allowed and it is the state with `R[t]` and the program counter set. -/
theorem readAccess_cases {rt : Reg} {s t : State} (h : readAccess rt s = .next t) :
    s.check = .allow ∧ t = (s.setReg rt s.readView).completed := by
  simp only [readAccess] at h
  split at h
  · exact absurd h (takeException_ne_next _ _ _)
  · rename_i hc
    exact ⟨hc, by simpa using h.symm⟩

/-- If a write answers a next state, it was allowed, it is not the UNPREDICTABLE case, and it is the updated state. -/
theorem writeAccess_cases {rt : Reg} {s t : State} (h : writeAccess rt s = .next t) :
    s.check = .allow ∧ ¬(s.sreRead = true ∧ (s.applyWrite (s.reg rt)).sreRead = false)
      ∧ t = State.completed { s.applyWrite (s.reg rt) with window := s.view :: s.window } := by
  simp only [writeAccess] at h
  split at h
  · exact absurd h (takeException_ne_next _ _ _)
  · rename_i hc
    split at h
    · cases h
    · rename_i u hu
      obtain ⟨hn, rfl⟩ := writeUpdate_cases hu
      exact ⟨hc, hn, by simpa using h.symm⟩

theorem admittedT32_cases {rt : Reg} {o : Host.Outcome State Fault Refusal} {t : State}
    (h : admittedT32 rt o = .next t) : rt ≠ 13 ∧ o = .next t := by
  simp only [admittedT32] at h
  split at h
  · cases h
  · exact ⟨‹_›, h⟩

theorem admittedT32_of_ne {rt : Reg} (h : rt ≠ 13) (o : Host.Outcome State Fault Refusal) :
    admittedT32 rt o = o := by
  simp [admittedT32, h]

/-! ### One instruction -/

/-- What an instruction that answers a next state did: it was allowed, and it read or wrote ICC_HSRE. -/
theorem exec_cases {i : Instr} {s t : State} (h : exec i s = .next t) :
    s.check = .allow
      ∧ ((i.dir = .read ∧ t = (s.setReg i.rt s.readView).completed)
        ∨ (i.dir = .write ∧ ¬(s.sreRead = true ∧ (s.applyWrite (s.reg i.rt)).sreRead = false)
          ∧ t = State.completed { s.applyWrite (s.reg i.rt) with window := s.view :: s.window })) := by
  cases i with
  | mrcA32 rt =>
    obtain ⟨hc, ht⟩ := readAccess_cases h
    exact ⟨hc, .inl ⟨rfl, ht⟩⟩
  | mcrA32 rt =>
    obtain ⟨hc, hn, ht⟩ := writeAccess_cases h
    exact ⟨hc, .inr ⟨rfl, hn, ht⟩⟩
  | mrcT32 rt =>
    obtain ⟨hc, ht⟩ := readAccess_cases (admittedT32_cases h).2
    exact ⟨hc, .inl ⟨rfl, ht⟩⟩
  | mcrT32 rt =>
    obtain ⟨hc, hn, ht⟩ := writeAccess_cases (admittedT32_cases h).2
    exact ⟨hc, .inr ⟨rfl, hn, ht⟩⟩

/-- A well-formed instruction that is not allowed takes its exception. -/
theorem exec_raise {i : Instr} {s : State} {x : Exc} (hi : i.WellFormed) (h : s.check = .raise x) :
    exec i s = takeException x { dir := i.dir, rt := i.rt } := by
  cases i with
  | mrcA32 rt => exact readAccess_raise h
  | mcrA32 rt => exact writeAccess_raise h
  | mrcT32 rt =>
    have : rt ≠ 13 := by simpa [Instr.WellFormed, Instr.wellFormed] using hi
    exact (admittedT32_of_ne this _).trans (readAccess_raise h)
  | mcrT32 rt =>
    have : rt ≠ 13 := by simpa [Instr.WellFormed, Instr.wellFormed] using hi
    exact (admittedT32_of_ne this _).trans (writeAccess_raise h)

/-! ### The environment -/

/-- What memory-mapped use can answer. -/
theorem mmioUse_cases {s t : State} (h : mmioUse s = .next t) :
    (s.params.sharedMmioSysreg = false ∧ t = s)
      ∨ (s.params.sharedMmioSysreg = true ∧ s.sreRead = false ∧ t = s.mmioUsed) := by
  simp only [mmioUse] at h
  split at h
  · rename_i hs
    exact .inl ⟨by simpa using hs, by simpa using h.symm⟩
  · rename_i hs
    split at h
    · cases h
    · rename_i hr
      exact .inr ⟨by simpa using hs, by simpa using hr, by simpa using h.symm⟩

theorem el3WritesMsre_cases {s t : State} {v : El3Values} (h : el3WritesMsre v s = .next t) :
    s.params.haveEL3 = true ∧ clearsEl3Sre s.inputs v = false ∧ t = s.withEl3 v := by
  simp only [el3WritesMsre] at h
  split at h
  · cases h
  · rename_i h3
    split at h
    · cases h
    · rename_i hc
      exact ⟨by simpa using h3, by simpa using hc, by simpa using h.symm⟩

theorem aarch64WriteSreEl2_none {s : State} {v : Word} (h : s.writeUpdate v = none) :
    aarch64WriteSreEl2 v s = .refused .unpredictableSre1To0 := by
  unfold aarch64WriteSreEl2
  rw [h]

theorem aarch64WriteSreEl2_some {s t : State} {v : Word} (h : s.writeUpdate v = some t) :
    aarch64WriteSreEl2 v s = .next t.drawn := by
  unfold aarch64WriteSreEl2
  rw [h]

theorem aarch64WriteSreEl2_cases {s t : State} {v : Word} (h : aarch64WriteSreEl2 v s = .next t) :
    ¬(s.sreRead = true ∧ (s.applyWrite v).sreRead = false)
      ∧ t = State.drawn { s.applyWrite v with window := s.view :: s.window } := by
  simp only [aarch64WriteSreEl2] at h
  split at h
  · cases h
  · rename_i u hu
    obtain ⟨hn, rfl⟩ := writeUpdate_cases hu
    exact ⟨hn, by simpa using h.symm⟩

/-! ### The fetch and the step -/

/-- If there is a next instruction, the launch premise holds and it is decoded from the program text. -/
theorem fetch_cases {s : State} {i : Instr} (h : fetch s = .ok i) :
    s.launchPremise = true ∧ ∃ w, Program.lookup s.program s.pc.toNat = some w
      ∧ decode s.instrSet s.inCondBlock w = .ok i := by
  simp only [fetch] at h
  split at h
  · cases h
  · rename_i hp
    refine ⟨by simpa using hp, ?_⟩
    split at h
    · cases h
    · rename_i w hw
      split at h
      · cases h
      · rename_i j hj
        cases h
        exact ⟨w, hw, hj⟩

theorem peTurn_cases {s t : State} (h : peTurn s = .next t) : ∃ i, fetch s = .ok i ∧ exec i s = .next t := by
  simp only [peTurn] at h
  split at h
  · cases h
  · exact ⟨_, ‹_›, h⟩

/-- What a step that answers a next state did: one turn, of the PE, of the environment, or a synchronisation. -/
theorem step_cases {s t : State} (h : step s = .next t) :
    (∃ i rest, (s.schedule = [] ∧ rest = [] ∨ s.schedule = .pe :: rest)
        ∧ fetch { s with schedule := rest } = .ok i ∧ exec i { s with schedule := rest } = .next t)
      ∨ (∃ a rest, s.schedule = .env a :: rest ∧ envStep a { s with schedule := rest } = .next t)
      ∨ (∃ rest, s.schedule = .contextSync :: rest ∧ t = State.contextSync { s with schedule := rest }) := by
  simp only [step] at h
  split at h
  · rename_i hs
    obtain ⟨i, hf, he⟩ := peTurn_cases h
    have hself : { s with schedule := [] } = s := by rw [← hs]
    exact .inl ⟨i, [], .inl ⟨hs, rfl⟩, by rw [hself]; exact hf, by rw [hself]; exact he⟩
  · rename_i rest hs
    obtain ⟨i, hf, he⟩ := peTurn_cases h
    exact .inl ⟨i, rest, .inr hs, hf, he⟩
  · rename_i a rest hs
    exact .inr (.inl ⟨a, rest, hs, h⟩)
  · rename_i rest hs
    exact .inr (.inr ⟨rest, hs, by simpa using h.symm⟩)

end Sys2Proof.Machine
end

