-- ==== Sys2Proof/Laws/Check.lean ====
section
/-! SUPPORT. When the check allows, and when a write clears SRE, in the words that statements use. -/

namespace Sys2Proof.Machine

open Sys2Proof.Safety

/-- The check allows exactly in rows 11 and 13 of R84. -/
theorem check_eq_allow {s : State} : s.check = .allow ↔ MayAccess s := by
  unfold State.check accessCheck MayAccess
  cases hp : present s.params
  · simp
  cases hel : s.inputs.el
  · simp
  · simp only [checkEL1]
    (repeat' split) <;> simp_all
  · simp only [checkEL2]
    cases el3Forbids s.params s.inputs
    · cases (msreEnable s.params s.inputs (Config.drawMsreEnable s.draws)) <;> simp
    · (repeat' split) <;> simp_all
  · simp [checkEL3]

/-- The UNPREDICTABLE case of a write, by the bit that is written. -/
theorem clears_iff (s : State) (v : Word) :
    (s.sreRead = true ∧ (s.applyWrite v).sreRead = false) ↔ ClearsSre s v := by
  unfold ClearsSre
  rw [State.readView_sre, sreRead_applyWrite]
  have := sreRead_eq s
  unfold sreRaoWi at *
  cases h1 : s.params.gicSysregOnly <;> cases h2 : sreRazWi s.params s.inputs <;> simp_all

end Sys2Proof.Machine
end

