-- ==== Sys2Proof/Laws/PerInstr.lean ====
section
/-! SUPPORT. The encoder beside spec/opcode_table.json: under the row's mask, the number of an instruction is the row's
match, and the bits the mask leaves out are `Rt`. -/

namespace Sys2Proof.Laws.TableRow

/-- The `mask` of all four rows. -/
def mask : Word := 0xFFFF0FFF

/-- The `match` of an instruction's row. -/
def rowMatch : Instr → Word
  | .mrcA32 _ => 0xEE9C0FB9
  | .mcrA32 _ => 0xEE8C0FB9
  | .mrcT32 _ => 0xEE9C0FB9
  | .mcrT32 _ => 0xEE8C0FB9

/-- The number of `i` matches its row, with `Rt` in bits 15:12. -/
def Statement (i : Instr) : Prop :=
  encode i &&& mask = rowMatch i ∧ (encode i).extractLsb' 12 4 = i.rt.toBits

theorem mrcA32 (rt : Reg) : Statement (.mrcA32 rt) := by
  unfold Statement; revert rt; decide +kernel

theorem mcrA32 (rt : Reg) : Statement (.mcrA32 rt) := by
  unfold Statement; revert rt; decide +kernel

theorem mrcT32 (rt : Reg) : Statement (.mrcT32 rt) := by
  unfold Statement; revert rt; decide +kernel

theorem mcrT32 (rt : Reg) : Statement (.mcrT32 rt) := by
  unfold Statement; revert rt; decide +kernel

end Sys2Proof.Laws.TableRow
end

