-- ==== Sys2Proof/Machine/Flags.lean ====
section
/-! DEFINITION. Flags: the machine has none. Neither instruction reads or writes a flag, only the always condition is
admitted, and `Rt = 15`, the one form that would write flags, is refused by the decoder (R41, R71, R72). This file
holds no definition. -/
end

