-- ==== Sys2Proof/Tests/Slice0.lean ====
section
/-! SUPPORT. Small tests, each a named theorem. Expected results are those of spec/95_test_vectors.md or are worked out
by hand from the rule named. `witness_…` shows that the hypotheses of the statement of that name can be met. -/

namespace Sys2Proof.Tests

open Sys2Proof.Machine Sys2Proof.Safety

/-! ### Well-formedness -/

theorem test_wf_t32_read_13 : (Instr.mrcT32 13).wellFormed = false := by decide

theorem test_wf_t32_write_13 : (Instr.mcrT32 13).wellFormed = false := by decide

theorem test_wf_a32_13 : (Instr.mrcA32 13).wellFormed = true ∧ (Instr.mcrA32 13).wellFormed = true := by decide

/-! ### The decoder: words written out from the layouts of R68 and R69 -/

/-- DV1 to DV4; the word of `Rt = 0` bit by bit: cond, 1110, opc1, L, CRn, Rt, coproc, opc2, 1, CRm. -/
theorem test_decode_mrcA32 :
    decode .a32 false 0b1110_1110_100_1_1100_0000_1111_101_1_1001 = .ok (.mrcA32 0)
      ∧ decode .a32 false 0xEE9C1FB9 = .ok (.mrcA32 1) ∧ decode .a32 false 0xEE9CEFB9 = .ok (.mrcA32 14)
      ∧ decode .a32 false 0xEE9CDFB9 = .ok (.mrcA32 13) := by decide

/-- DV6, DV7. -/
theorem test_decode_mcrA32 :
    decode .a32 false 0b1110_1110_100_0_1100_0011_1111_101_1_1001 = .ok (.mcrA32 3)
      ∧ decode .a32 false 0xEE8C0FB9 = .ok (.mcrA32 0) := by decide

/-- DV17, DV20, DV19; first halfword 1110 1110 opc1 L CRn, second Rt coproc opc2 1 CRm. -/
theorem test_decode_mrcT32 :
    decodeT32 false 0b1110_1110_100_1_1100 0b0000_1111_101_1_1001 = .ok (.mrcT32 0)
      ∧ decode .t32 false 0xEE9CFFB9 = .error (.rtNotAdmitted 15)
      ∧ decode .t32 false 0xEE9CDFB9 = .error (.rtNotAdmitted 13)
      ∧ decode .t32 true 0xEE9C0FB9 = .error .conditional := by decide

/-- DV18. -/
theorem test_decode_mcrT32 :
    decodeT32 false 0b1110_1110_100_0_1100 0b0010_1111_101_1_1001 = .ok (.mcrT32 2) := by decide

/-- DV5, DV8, DV9. -/
theorem test_decode_refused :
    decode .a32 false 0xEE9CFFB9 = .error (.rtNotAdmitted 15) ∧ decode .a32 false 0xEE8CFFB9 = .error (.rtNotAdmitted 15)
      ∧ decode .a32 false 0x0E9C0FB9 = .error .conditional := by decide

/-- DV10 to DV16: one field at a time is another's. -/
theorem test_decode_not_iccHsre :
    [0xFE9C0FB9, 0xEE9C0F99, 0xEE9C0FB8, 0xEE9D0FB9, 0xEE1C0FB9, 0xEE9C0EB9, 0xEE9C0FA9].map (decode .a32 false)
      = List.replicate 7 (.error .notIccHsre) := by decide

theorem test_decodeTableWord :
    decodeTableWord 32 0xEE9C0FB9 = some (.mrcA32 0) ∧ decodeTableWord 32 0xEE8C0FB9 = some (.mcrA32 0)
      ∧ decodeTableWord 32 0x0FB9EE9C = some (.mrcT32 0) ∧ decodeTableWord 32 0x2FB9EE8C = some (.mcrT32 2)
      ∧ decodeTableWord 32 0 = none := by decide

/-! ### Small states -/

/-- A one-bit cell from the spec's `0`, `1`. -/
def bit (n : Nat) : Cell := .known (n == 1)

/-- The plain state with stored cells `{SRE, DFB, DIB, Enable}`, as 95_test_vectors.md writes them. -/
def plain (sre dfb dib en : Cell) : State :=
  { State.reset with
    hsre := { sre := sre, dfb := dfb, dib := dib, enable := en, res := State.reset.hsre.res } }

/-- A state with `R[t]` set. -/
def withReg (s : State) (t : Reg) (v : Word) : State := s.setReg t v

/-- The next state, if there is one. -/
def next? (o : Host.Outcome State Fault Refusal) : Option State :=
  match o with
  | .next s => some s
  | .fault _ => none
  | .refused _ => none

/-- The fault, if there is one. -/
def fault? (o : Host.Outcome State Fault Refusal) : Option Fault :=
  match o with
  | .next _ => none
  | .fault f => some f
  | .refused _ => none

/-- The refusal, if there is one. -/
def refusal? (o : Host.Outcome State Fault Refusal) : Option Refusal :=
  match o with
  | .next _ => none
  | .fault _ => none
  | .refused r => some r

/-- An implementation with EL3, in the state of WV9: EL3 using AArch32, `ICC_MSRE.SRE` and `ICC_MSRE.Enable` 1. -/
def el3A32 (ds : Bool) : State :=
  { plain (bit 0) (bit 0) (bit 0) (bit 0) with
    params := { Params.plain with haveEL3 := true }
    inputs := { Inputs.plain with el3IsAArch32 := true, iccMsreEnable := true, iccMsreSre := true, gicdCtlrDs := ds } }

/-- The same with EL3 using AArch64, `ICC_SRE_EL3.Enable` 1 and `ICC_SRE_EL3.SRE` as given. -/
def el3A64 (sre : Bool) : State :=
  { el3A32 false with
    inputs := { Inputs.plain with iccSreEl3Enable := true, iccSreEl3Sre := sre } }

/-- The plain state at EL1 under an EL2 using AArch32 or not, T12 as given. -/
def atEL1 (a32 t12 t12x : Bool) : State :=
  { plain (bit 1) (bit 0) (bit 0) (bit 1) with
    inputs := { Inputs.plain with el := .el1, el2IsAArch32 := a32, hstrT12 := t12, hstrEl2T12 := t12x } }

/-- EL2 under an EL3 using AArch64 that forbids the access. -/
def forbidden (halted sdd : Bool) : State :=
  { el3A64 true with
    inputs := { Inputs.plain with halted := halted, edscrSdd := sdd } }

/-! ### The instructions: two each -/

/-- Worked example of R82: `R[0]` becomes 9 and the program counter advances by 4. -/
theorem test_mrcA32_example :
    (next? (exec (.mrcA32 0) (plain (bit 1) (bit 0) (bit 0) (bit 1)))).map (fun t => (t.reg 0, t.pc))
      = some (0x9#32, 4#32) := by decide +kernel

/-- Program 3: a Hyp trap, direction read, `t = 2`. -/
theorem test_mrcA32_hypTrap :
    fault? (exec (.mrcA32 2) (atEL1 true true false)) = some (.hypTrap 3 { dir := .read, rt := 2 }) := by decide

/-- Worked example of R83 (WV1): after the write of 9 the read view is 9. -/
theorem test_mcrA32_example :
    (next? (exec (.mcrA32 1) (withReg State.reset 1 0x9))).map (fun t => (t.readView, t.reg 1, t.pc))
      = some (0x9#32, 0x9#32, 4#32) := by decide +kernel

/-- Program 5, step 3 (WV3): the forbidden write. -/
theorem test_mcrA32_unpredictable :
    refusal? (exec (.mcrA32 0) (withReg (plain (bit 1) (bit 0) (bit 0) (bit 1)) 0 0x8)) = some .unpredictableSre1To0 := by
  decide

/-- RV4 through the T32 form. -/
theorem test_mrcT32_read :
    (next? (exec (.mrcT32 12) (plain (bit 0) (bit 1) (bit 0) (bit 0)))).map (fun t => t.reg 12) = some 0x2#32 := by
  decide +kernel

theorem test_mrcT32_13 :
    refusal? (exec (.mrcT32 13) State.reset) = some (.decode (.rtNotAdmitted 13)) := by decide

/-- WV2 through the T32 form: bits 31:4 are discarded. -/
theorem test_mcrT32_write :
    (next? (exec (.mcrT32 14) (withReg (plain (bit 1) (bit 0) (bit 0) (bit 1)) 14 0xFFFFFFFF))).map State.readView
      = some 0xF#32 := by decide +kernel

/-- EL2 forbidden by EL3: a trap to EL3, direction write (AV8). -/
theorem test_mcrT32_trapToEL3 :
    fault? (exec (.mcrT32 0) (forbidden false false)) = some (.trapToEL3AArch64 3 { dir := .write, rt := 0 }) := by
  decide

/-! ### Shared operations, by the spec's vectors -/

/-- AV3 to AV12, AV20 and AV21 that the states above can show. -/
theorem test_check :
    (atEL1 false false true).check = .raise (.trapToEL2AArch64 3) ∧ (atEL1 false true false).check = .raise .undefined
      ∧ (atEL1 true false true).check = .raise .undefined ∧ (forbidden true true).check = .raise .undefined
      ∧ (forbidden true false).check = .raise (.trapToEL3AArch64 3)
      ∧ (forbidden false true).check = .raise (.trapToEL3AArch64 3)
      ∧ accessCheck Params.plain { Inputs.plain with el := .el3, el2Enabled := false } true = .raise .undefined
      ∧ accessCheck Params.plain { Inputs.plain with el := .el3 } false = .allow := by decide

/-- AV13 to AV15: what `MSRE_ENABLE_WHEN_NO_AARCH32_EL3` decides. -/
theorem test_check_msreEnable (d : Bool) :
    accessCheck { Params.plain with msreEnableWhenNoAArch32EL3 := .zero } Inputs.plain d = .raise .undefined
      ∧ accessCheck { Params.plain with msreEnableWhenNoAArch32EL3 := .any } Inputs.plain d
        = if d then .allow else .raise .undefined := by revert d; decide

/-- RV7 to RV10: RAO/WI bits. -/
theorem test_readView_raowi :
    State.readView { plain (bit 0) (bit 0) (bit 0) (bit 0) with params := { Params.plain with gicSysregOnly := true } } = 1
      ∧ State.readView { plain (bit 0) (bit 0) (bit 0) (bit 0) with
          params := { Params.plain with gicSysregOnly := true, enableRaoWiWithSre := true } } = 9
      ∧ State.readView { plain (bit 0) (bit 0) (bit 0) (bit 0) with
          params := { Params.plain with irqBypassSupported := false, fiqBypassSupported := false } } = 6 := by
  decide +kernel

/-- RV11 and RV13: RAZ/WI by EL3 although 1 is stored; RV14: a writable reserved bit. -/
theorem test_readView_el3_and_reserved :
    State.readView { el3A32 false with
        inputs := { Inputs.plain with el3IsAArch32 := true }, msreDib := true
        hsre := (plain (bit 1) (bit 0) (bit 0) (bit 1)).hsre } = 0xC
      ∧ State.readView { el3A64 false with hsre := (plain (bit 1) (bit 0) (bit 0) (bit 0)).hsre } = 0
      ∧ State.readView { plain (bit 1) (bit 0) (bit 0) (bit 1) with
          params := { Params.plain with res0WritableMask := 1 }
          hsre := { (plain (bit 1) (bit 0) (bit 0) (bit 1)).hsre with
            res := (Vector.replicate 28 (bit 0)).set 0 (bit 1) } } = 0x19 := by decide +kernel

/-- WV8 to WV10: RAZ/WI, and read-only and read/write aliases. -/
theorem test_write_aliases :
    ((el3A32 false).applyWrite 0xF).readView = 0x9 ∧ ((el3A32 true).applyWrite 0xF).readView = 0xF
      ∧ ((el3A32 true).applyWrite 0xF).msreDib = true ∧ ((el3A64 false).applyWrite 0xF).readView = 0x8 := by
  decide +kernel

/-- EV1 to EV6. -/
theorem test_predicates :
    [0x0, 0x1, 0x9, 0x8, 0xF, 0x7].map effectiveEnable = [true, false, true, true, true, false]
      ∧ [0x0, 0x1, 0x9, 0x8, 0xF, 0x7].map Predicate.irqBypassEnabled.holdsOf
        = [true, true, true, true, false, false] := by decide

/-- EV8: with Enable unknown and SRE 1 the trap predicate may be either. -/
theorem test_predicate_unknown :
    Predicate.nsEL1IccSreAccessTrapsToEL2.mayBe true (plain (bit 1) (bit 0) (bit 0) .unknown) = true
      ∧ Predicate.nsEL1IccSreAccessTrapsToEL2.mayBe false (plain (bit 1) (bit 0) (bit 0) .unknown) = true
      ∧ Predicate.otherGicSysRegAccessUndefined.mayBe true (plain (bit 1) (bit 0) (bit 0) .unknown) = false := by
  decide +kernel

/-- ZV1: a Warm reset of `{1,1,1,1}` leaves `{0,0,0,u}`. -/
theorem test_warmReset :
    ((plain (bit 1) (bit 1) (bit 1) (bit 1)).warmReset ResetValues.plain).hsre = State.reset.hsre := by decide +kernel

/-- XV1, XV4: memory-mapped use of `{0,0,0,1}`; XV3: it is not enabled while SRE reads 1. -/
theorem test_mmioUse :
    (next? (mmioUse (plain (bit 0) (bit 0) (bit 0) (bit 1)))).map (fun t => (t.hsre.sre, t.hsre.dib, t.hsre.enable))
        = some (.unknown, .unknown, .unknown)
      ∧ (next? (mmioUse { plain (bit 0) (bit 0) (bit 0) (bit 1) with
          params := { Params.plain with mmioHavocIncludesSre := false } })).map (fun t => t.hsre.sre) = some (bit 0)
      ∧ refusal? (mmioUse (plain (bit 1) (bit 0) (bit 0) (bit 1))) = some .actionNotEnabled := by decide

/-- 95_test_vectors.md section 4. -/
theorem test_syndrome :
    (Fault.hypTrap 3 { dir := .read, rt := 2 }).syndrome = some 0x0FEB3053
      ∧ (Fault.hypTrap 3 { dir := .write, rt := 2 }).syndrome = some 0x0FEB3052 := by decide

/-- From reset, the first instruction placed runs. -/
theorem test_first_step :
    ((next? (step (State.reset.withFetchWord 32 0xEE8C0FB9))).map fun t => t.pc) = some 4
      ∧ (next? (step (State.reset.withFetchWord 32 0xEE9C0FB9))).isSome = true
      ∧ (next? (step (State.reset.withFetchWord 32 0x0FB9EE9C))).isSome = true
      ∧ refusal? (step State.reset) = some .noProgramText := by decide

/-! ### The hypotheses of the statements can be met -/

theorem exists_next {o : Host.Outcome State Fault Refusal} (h : (next? o).isSome = true) : ∃ t, o = .next t := by
  cases o <;> simp_all [next?]

theorem exists_fault {o : Host.Outcome State Fault Refusal} (h : (fault? o).isSome = true) : ∃ f, o = .fault f := by
  cases o <;> simp_all [fault?]

/-- SRE 1, Enable 1 stored: an ordinary enabled register. -/
def on : State := plain (bit 1) (bit 0) (bit 0) (bit 1)

/-- The plain state with other parameters. -/
def withParams (p : Params) : State := { on with params := p }

/-- A parameter set that has no EL3 and a System register interface only, Enable RAO/WI as given. -/
def sysregOnly (raowi : Bool) : State :=
  withParams { Params.plain with gicSysregOnly := true, enableRaoWiWithSre := raowi }

/-- An implementation that supports neither bypass. -/
def noBypass : State := withParams { Params.plain with irqBypassSupported := false, fiqBypassSupported := false }

/-- Bits 4 and 31 of the register writable, 0 stored. -/
def writableReserved : State :=
  { withParams { Params.plain with res0WritableMask := 0x8000001 } with
    hsre := { on.hsre with res := Vector.replicate 28 (bit 0) } }

/-- A state whose next turns are given. -/
def turns (s : State) (l : List Turn) : State := { s with schedule := l }

theorem witness_DecodeOfEncodeIsTheInstruction :
    (Instr.mrcT32 14).WellFormed ∧ ((Instr.mrcT32 14).set = .t32 → false = false) := by decide

theorem witness_DecodedNumberIsTheEncoding :
    decode .a32 true 0xEE9CEFB9 = .ok (.mrcA32 14) ∧ decode .t32 false 0xEE8CCFB9 = .ok (.mcrT32 12) := by decide

theorem witness_OnlyTheAlwaysConditionIsAdmitted :
    decode .a32 false 0xEE8C0FB9 = .ok (.mcrA32 0)
      ∧ Fields.namesIccHsre { Fields.access .read 0 with cond := 0 } = true
      ∧ Fields.namesIccHsre { Fields.access .read 0 with cond := 0b1101 } = true
      ∧ (Fields.access .write 14).namesIccHsre = true ∧ (Fields.access .write 14).cond = 0b1110 := by decide

theorem witness_RefusedAndAdmittedRt :
    Reg.toBits 0 = 0 ∧ Reg.toBits 14 = 14 ∧ Reg.toBits 13 = 13 ∧ (14 : Reg) ≠ 13 := by decide

theorem witness_OtherWordsAreNotIccHsre :
    (0xEE9C0FB8 : Word) &&& 0x0FFF0FFF ≠ 0x0E9C0FB9 ∧ (0xEE9C0FB8 : Word) &&& 0x0FFF0FFF ≠ 0x0E8C0FB9
      ∧ (0xFE9C0FB9 : Word) &&& 0xF0000000 = 0xF0000000
      ∧ (0x0E9C0FB9 : Word) &&& 0xFFFF0FFF ≠ 0xEE9C0FB9 ∧ (0x0E9C0FB9 : Word) &&& 0xFFFF0FFF ≠ 0xEE8C0FB9 := by decide

/-- Each level's clause at states that meet it: EL0, EL1 with each outcome, EL3 with EL2 enabled and not. -/
theorem witness_OutcomesAtEl0El1AndEl3 :
    (Instr.mcrT32 0).WellFormed ∧ present State.reset.params = true
      ∧ fault? (exec (.mcrT32 0) { State.reset with inputs := { Inputs.plain with el := .el0 } })
        = some (.undefined ⟨.write, 0⟩)
      ∧ fault? (exec (.mcrT32 0) (atEL1 false true false)) = some (.undefined ⟨.write, 0⟩)
      ∧ fault? (exec (.mcrT32 0) { State.reset with inputs := { Inputs.plain with el := .el3, el2Enabled := false } })
        = some (.undefined ⟨.write, 0⟩)
      ∧ ({ Inputs.plain with el := .el3 } : Inputs).el2Enabled = true := by decide

/-- Every outcome of R86 to R89 occurs, for a well-formed instruction; so does the `Undefined` of an AArch32 EL3. -/
theorem witness_UndefinedExactlyInTheSixCases :
    (Instr.mcrT32 0).WellFormed ∧ fault? (exec (.mcrT32 0) (forbidden true true)) = some (.undefined ⟨.write, 0⟩) := by
  decide

theorem witness_TrapToEl2ExactlyWhen :
    (Instr.mrcA32 1).WellFormed
      ∧ fault? (exec (.mrcA32 1) (atEL1 false false true)) = some (.trapToEL2AArch64 3 ⟨.read, 1⟩) := by decide

theorem witness_HypTrapExactlyWhen :
    (Instr.mcrT32 12).WellFormed
      ∧ fault? (exec (.mcrT32 12) (atEL1 true true true)) = some (.hypTrap 3 ⟨.write, 12⟩) := by decide

/-- EL3 using AArch32 with `ICC_MSRE.Enable` 0. -/
def el3A32Off : State := { el3A32 false with inputs := { Inputs.plain with el3IsAArch32 := true } }

theorem witness_TrapToEl3ExactlyWhen :
    (Instr.mrcT32 14).WellFormed
      ∧ fault? (exec (.mrcT32 14) (forbidden true false)) = some (.trapToEL3AArch64 3 ⟨.read, 14⟩)
      ∧ el3A32Off.inputs.el = .el2 ∧ el3A32Off.params.haveEL3 = true ∧ el3A32Off.inputs.el3IsAArch32 = true
      ∧ el3A32Off.inputs.iccMsreEnable = false := by decide

theorem witness_ExceptionRecordsTheAccess : ∃ f, exec (.mcrA32 14) (atEL1 true true true) = .fault f :=
  exists_fault (by decide)

theorem witness_AbsentRegisterIsUndefined :
    let s := withParams { Params.plain with featGICv3 := false }
    (Instr.mrcA32 0).WellFormed
      ∧ (s.params.el2AArch32Capable && s.params.featGICv3 && (s.params.haveEL2 || s.params.haveEL3)) = false := by
  decide

theorem witness_WithoutEl2EveryAccessIsUndefined :
    let s := { atEL1 true true true with
      params := { Params.plain with haveEL2 := false, haveEL3 := true }
      inputs := { (atEL1 true true true).inputs with el2Enabled := false } }
    Consistent s = true ∧ s.params.haveEL2 = false ∧ present s.params = true := by decide

theorem witness_ReadAndWriteTakeTheSameExceptions :
    (12 : Reg) ≠ 13 ∧ fault? (exec (.mrcT32 12) (atEL1 true true true)) = some (.hypTrap 3 ⟨.read, 12⟩) := by decide

theorem witness_CompletedAccessWasAllowed : ∃ t, exec (.mrcA32 0) on = .next t := exists_next (by decide)

theorem mayAccess_on : MayAccess on := ⟨by decide, .inl ⟨rfl, by decide, by decide⟩⟩

/-- EL3 with EL2 enabled, nothing else set. -/
def atEL3 : State := { el3A32Off with inputs := { Inputs.plain with el := .el3, el3IsAArch32 := true } }

/-- Row 11 and row 13. -/
theorem witness_ReadCompletesWithTheReadView : MayAccess on ∧ MayAccess atEL3 ∧ (14 : Reg) ≠ 13 :=
  ⟨mayAccess_on, ⟨by decide, .inr ⟨rfl, rfl⟩⟩, by decide⟩

theorem not_clears_reset : ¬ClearsSre State.reset State.reset.regs[(0 : Reg)] := by
  rintro ⟨h, _, _⟩
  rw [State.readView_sre] at h
  exact absurd h (by decide)

/-- A write of 0 over 0, and in row 13. -/
theorem witness_WriteCompletesWithTheUpdatedFields :
    (MayAccess State.reset ∧ ¬ClearsSre State.reset State.reset.regs[(0 : Reg)])
      ∧ MayAccess atEL3 ∧ ¬ClearsSre atEL3 atEL3.regs[(0 : Reg)] := by
  refine ⟨⟨⟨by decide, .inl ⟨rfl, by decide, by decide⟩⟩, not_clears_reset⟩, ⟨by decide, .inr ⟨rfl, rfl⟩⟩, ?_⟩
  rintro ⟨h, _, _⟩
  rw [State.readView_sre] at h
  exact absurd h (by decide)

/-- A write of 0 over 1. -/
theorem witness_ClearingSreIsRefused : MayAccess on ∧ ClearsSre on on.regs[(0 : Reg)] := by
  refine ⟨mayAccess_on, ?_, rfl, by decide⟩
  rw [State.readView_sre]
  decide

theorem witness_ReadFrame :
    (Instr.mrcT32 0).dir = .read ∧ (∃ t, exec (.mrcT32 0) on = .next t) ∧ ∃ t, exec (.mrcA32 13) atEL3 = .next t :=
  ⟨rfl, exists_next (by decide), exists_next (by decide)⟩

/-- EL3 using AArch32 with `GICD_CTLR.DS` 1 and neither bypass supported, `MSRE_DIB` and `MSRE_DFB` 1 (R6). -/
def el3NoBypass : State :=
  { el3A32 true with
    params := { Params.plain with haveEL3 := true, irqBypassSupported := false, fiqBypassSupported := false }
    msreDib := true
    msreDfb := true }

/-- Each clause of the write's frame: SRE RAO/WI, Enable with it or not; SRE RAZ/WI; no bypass; EL3; a hardwired reserved
bit; DS 0; no bypass under EL3 with DS 1. -/
theorem witness_WriteFrame :
    (Instr.mcrA32 0).dir = .write ∧ (∃ t, exec (.mcrA32 0) State.reset = .next t)
      ∧ ((sysregOnly false).params.gicSysregOnly = true ∧ ∃ t, exec (.mcrA32 0) (sysregOnly false) = .next t)
      ∧ (((sysregOnly true).params.gicSysregOnly && (sysregOnly true).params.enableRaoWiWithSre) = true
        ∧ ∃ t, exec (.mcrA32 0) (sysregOnly true) = .next t)
      ∧ (sreRazWi (el3A64 false).params (el3A64 false).inputs = true ∧ ∃ t, exec (.mcrA32 0) (el3A64 false) = .next t)
      ∧ (noBypass.params.fiqBypassSupported = false ∧ ∃ t, exec (.mcrA32 0) (withReg noBypass 0 1) = .next t)
      ∧ ((el3A32 false).inputs.gicdCtlrDs = false ∧ ∃ t, exec (.mcrT32 0) (el3A32 false) = .next t)
      ∧ (el3NoBypass.inputs.gicdCtlrDs = true ∧ el3NoBypass.params.haveEL3 = true
        ∧ el3NoBypass.params.irqBypassSupported = false ∧ el3NoBypass.params.fiqBypassSupported = false
        ∧ ∃ t, exec (.mcrT32 14) el3NoBypass = .next t)
      ∧ writableReserved.params.res0WritableMask[(1 : Fin 28)] = false :=
  ⟨rfl, exists_next (by decide), ⟨rfl, exists_next (by decide)⟩, ⟨rfl, exists_next (by decide)⟩,
    ⟨rfl, exists_next (by decide)⟩, ⟨rfl, exists_next (by decide)⟩, ⟨rfl, exists_next (by decide)⟩,
    ⟨rfl, rfl, rfl, rfl, exists_next (by decide)⟩, by decide⟩

theorem witness_CompletedAccessAdvancesThePc : ∃ t, exec (.mcrT32 14) State.reset = .next t := exists_next (by decide)

theorem witness_SysregOnlySreReadsOneIgnoresWrites :
    (sysregOnly true).params.gicSysregOnly = true ∧ (∃ t, exec (.mrcA32 0) (sysregOnly true) = .next t)
      ∧ ∃ t, exec (.mcrA32 0) (sysregOnly true) = .next t :=
  ⟨rfl, exists_next (by decide), exists_next (by decide)⟩

theorem witness_SreIsRazWiUnderAArch64El3 :
    ((el3A64 false).params.gicSysregOnly = false ∧ (el3A64 false).params.haveEL3 = true
        ∧ (el3A64 false).inputs.el3IsAArch32 = false ∧ (el3A64 false).inputs.iccSreEl3Sre = false)
      ∧ (∃ t, exec (.mrcA32 0) (el3A64 false) = .next t) ∧ ∃ t, exec (.mcrA32 0) (el3A64 false) = .next t :=
  ⟨by decide, exists_next (by decide), exists_next (by decide)⟩

theorem witness_SreIsRazWiUnderAArch32El3 :
    (atEL3.params.gicSysregOnly = false ∧ atEL3.params.haveEL3 = true ∧ atEL3.inputs.el3IsAArch32 = true
        ∧ atEL3.inputs.iccMsreSre = false)
      ∧ (∃ t, exec (.mrcA32 0) atEL3 = .next t) ∧ ∃ t, exec (.mcrA32 0) atEL3 = .next t :=
  ⟨by decide, exists_next (by decide), exists_next (by decide)⟩

theorem witness_BypassBitsAreReadOnlyAliases :
    ((el3A32 false).params.haveEL3 = true ∧ (el3A32 false).inputs.gicdCtlrDs = false
        ∧ (el3A32 false).params.irqBypassSupported = true ∧ (el3A32 false).params.fiqBypassSupported = true)
      ∧ (∃ t, exec (.mrcA32 0) (el3A32 false) = .next t) ∧ ∃ t, exec (.mcrA32 0) (el3A32 false) = .next t :=
  ⟨by decide, exists_next (by decide), exists_next (by decide)⟩

theorem witness_BypassBitsAreReadWriteAliases :
    ((el3A32 true).params.haveEL3 = true ∧ (el3A32 true).inputs.gicdCtlrDs = true
        ∧ (el3A32 true).params.irqBypassSupported = true ∧ (el3A32 true).params.fiqBypassSupported = true)
      ∧ (∃ t, exec (.mrcA32 0) (el3A32 true) = .next t) ∧ ∃ t, exec (.mcrA32 0) (el3A32 true) = .next t :=
  ⟨by decide, exists_next (by decide), exists_next (by decide)⟩

theorem witness_UnsupportedBypassBitsReadOneIgnoreWrites :
    (noBypass.params.irqBypassSupported = false ∧ noBypass.params.fiqBypassSupported = false)
      ∧ (∃ t, exec (.mrcT32 0) noBypass = .next t) ∧ ∃ t, exec (.mcrT32 0) (withReg noBypass 0 1) = .next t :=
  ⟨by decide, exists_next (by decide), exists_next (by decide)⟩

/-- Both branches: RAO/WI, and an ordinary stored bit. -/
theorem witness_EnableIsRaoWiOrStored :
    (∃ t, exec (.mrcA32 0) (sysregOnly true) = .next t) ∧ (∃ t, exec (.mcrA32 0) (sysregOnly true) = .next t)
      ∧ ((sysregOnly false).hsre.enable = .known true ∧ ∃ t, exec (.mrcA32 0) (sysregOnly false) = .next t)
      ∧ ∃ t, exec (.mcrA32 0) State.reset = .next t :=
  ⟨exists_next (by decide), exists_next (by decide), ⟨rfl, exists_next (by decide)⟩, exists_next (by decide)⟩

/-- A writable bit at either end, and a hardwired one. -/
theorem witness_ReservedBits :
    (writableReserved.params.res0WritableMask[(0 : Fin 28)] = true
        ∧ writableReserved.params.res0WritableMask[(27 : Fin 28)] = true
        ∧ writableReserved.params.res0WritableMask[(1 : Fin 28)] = false
        ∧ writableReserved.hsre.res[(27 : Fin 28)] = .known false)
      ∧ (∃ t, exec (.mrcA32 0) writableReserved = .next t)
      ∧ ∃ t, exec (.mcrA32 0) (withReg writableReserved 0 0x80000011) = .next t :=
  ⟨by decide, exists_next (by decide), exists_next (by decide)⟩

theorem witness_EnableActsAsOneWhileSreReadsZero :
    State.reset.readView[0] = false ∧ (el3A64 false).hsre.enable = .known false
      ∧ (el3A64 false).readView[0] = false ∧ ∃ t, exec (.mcrA32 0) State.reset = .next t := by
  refine ⟨?_, rfl, ?_, exists_next (by decide)⟩
  · rw [State.readView_sre]; decide
  · rw [State.readView_sre]; decide

theorem witness_TwoReadsAgree :
    View.Known on.view ∧ ∃ t u, exec (.mrcA32 0) on = .next t ∧ exec (.mrcT32 1) t = .next u := by
  refine ⟨⟨by decide, by decide, by decide, by decide, by decide⟩, ?_⟩
  obtain ⟨u, hu⟩ : ∃ u, exec (.mrcT32 1) (on.setReg 0 on.readView).completed = .next u := exists_next (by decide)
  exact ⟨_, u, readAccess_allow (check_eq_allow.mpr mayAccess_on), hu⟩

theorem witness_ReadAfterWriteSeesTheWrite :
    (State.reset.params.gicSysregOnly = false ∧ State.reset.params.haveEL3 = false
        ∧ State.reset.params.irqBypassSupported = true ∧ State.reset.params.fiqBypassSupported = true)
      ∧ ∃ t u, exec (.mcrA32 0) (withReg State.reset 0 9) = .next t ∧ exec (.mrcT32 1) t = .next u := by
  refine ⟨by decide, ?_⟩
  obtain ⟨t, ht⟩ : ∃ t, exec (.mcrA32 0) (withReg State.reset 0 9) = .next t := exists_next (by decide)
  obtain ⟨_, ⟨h, _⟩ | ⟨_, _, rfl⟩⟩ := exec_cases ht
  · exact absurd h (by decide)
  · obtain ⟨u, hu⟩ : ∃ u, exec (.mrcT32 1)
        (State.completed
          { (withReg State.reset 0 9).applyWrite ((withReg State.reset 0 9).reg 0) with
            window := (withReg State.reset 0 9).view :: (withReg State.reset 0 9).window }) = .next u :=
      exists_next (by decide)
    exact ⟨_, u, ht, hu⟩

theorem witness_WarmResetStep :
    (turns on [.env (.warmReset ResetValues.plain), .pe]).schedule = .env (.warmReset ResetValues.plain) :: [.pe] := rfl

theorem witness_ReadViewAfterWarmReset :
    on.warmReset ResetValues.plain = on.warmReset ResetValues.plain ∨ on = State.resetOf on.params ResetValues.plain :=
  .inl rfl

theorem witness_StoredCellsAtReset :
    (Params.plain.gicSysregOnly && Params.plain.enableRaoWiWithSre) = false
      ∧ writableReserved.params.res0WritableMask[(27 : Fin 28)] = true := by decide

theorem witness_MmioUseMakesTheCellsUnknown :
    (withParams { Params.plain with sharedMmioSysreg := false }).params.sharedMmioSysreg = false
      ∧ (on.params.sharedMmioSysreg = true ∧ on.readView[0] = true)
      ∧ (State.reset.params.sharedMmioSysreg = true ∧ State.reset.readView[0] = false)
      ∧ enableExists State.reset.params = true ∧ dibExists State.reset.params = true
      ∧ dfbExists State.reset.params = true ∧ writableReserved.params.res0WritableMask[(0 : Fin 28)] = true := by
  rw [State.readView_sre, State.readView_sre]
  decide

/-- EL3 software's values that clear an SRE field, and values that keep it. -/
def el3Values (sre : Bool) : El3Values := ⟨true, false, true, sre, false, false⟩

theorem witness_InputActionsChangeOnlyTheirInputs :
    on.params.haveEL3 = false
      ∧ ((el3A32 false).params.haveEL3 = true ∧ (el3A32 false).inputs.iccMsreSre = true
        ∧ (el3Values false).iccMsreSre = false)
      ∧ ((el3A64 true).inputs.iccSreEl3Sre = true ∧ (el3Values true).iccSreEl3Sre = false)
      ∧ ((el3A32 false).inputs.iccMsreSre = true → (el3Values true).iccMsreSre = true)
      ∧ ((el3A32 false).inputs.iccSreEl3Sre = true → (el3Values true).iccSreEl3Sre = true) := by decide

/-- A write of 0 where SRE reads 1 and of 1 at EL1, where no `MCR` is allowed; the `MCR`s that the write agrees with. -/
theorem witness_AArch64WriteIsAWriteOfTheSameStorage :
    ClearsSre (atEL1 true true true) 0 ∧ ¬ClearsSre (atEL1 true true true) 1
      ∧ (MayAccess (withReg on 0 1) ∧ (withReg on 0 1).regs[(0 : Reg)] = 1
        ∧ ∃ u, exec (.mcrA32 0) (withReg on 0 1) = .next u)
      ∧ MayAccess on ∧ exec (.mcrA32 0) on = .refused .unpredictableSre1To0 := by
  refine ⟨⟨?_, rfl, rfl⟩, fun h => absurd h.2.2 (by decide), ⟨mayAccess_on, rfl, exists_next (by decide)⟩,
    mayAccess_on, rfl⟩
  rw [State.readView_sre]
  decide

/-- A program of one write at the program counter. -/
def oneWrite : State := (withReg State.reset 0 9).withFetchWord 32 0xEE8C0FB9

theorem witness_StoredCellsChangeOnlyByTheNamedEvents : ∃ t, step oneWrite = .next t ∧ t.hsre ≠ oneWrite.hsre := by
  obtain ⟨t, ht⟩ := exists_next (o := step oneWrite) (by decide)
  refine ⟨t, ht, ?_⟩
  have hd : ((next? (step oneWrite)).map fun u => u.hsre.sre) = some (.known true) := by decide
  rw [ht] at hd
  have hs : t.hsre.sre = .known true := by simpa [next?] using hd
  intro he
  rw [he] at hs
  exact absurd hs (by decide)

theorem witness_QuietMachineChangesOnlyByAWrite : Quiet oneWrite = true ∧ ∃ t, step oneWrite = .next t :=
  ⟨by decide, exists_next (by decide)⟩

theorem witness_ProgramAndParametersAreFixed : ∃ t, step oneWrite = .next t := exists_next (by decide)

theorem witness_PredicatesAreOldOrNewUntilSynchronised :
    (Instr.mcrA32 0).dir = .write ∧ ∃ t, exec (.mcrA32 0) (withReg State.reset 0 9) = .next t :=
  ⟨rfl, exists_next (by decide)⟩

/-- Each clause of R6 breaks: SRE RAO/WI and RAZ/WI, under either EL3, and each unsupported bypass with a 0 alias. -/
theorem witness_BrokenLaunchPremiseIsRefused :
    refusal? (step { el3A64 false with params := { Params.plain with haveEL3 := true, gicSysregOnly := true } })
        = some .launchPremise
      ∧ refusal? (step { atEL3 with params := { Params.plain with haveEL3 := true, gicSysregOnly := true } })
        = some .launchPremise
      ∧ refusal? (step { atEL3 with params := { Params.plain with haveEL3 := true, irqBypassSupported := false } })
        = some .launchPremise
      ∧ refusal? (step { atEL3 with params := { Params.plain with haveEL3 := true, fiqBypassSupported := false } })
        = some .launchPremise ∧ atEL3.schedule = [] := by decide

theorem witness_StepRunsTheDecodedInstruction :
    (PeTurn oneWrite ∧ PeTurn on ∧ oneWrite.launchPremise = true
      ∧ Program.lookup oneWrite.program oneWrite.pc.toNat = some 0xEE8C0FB9
      ∧ decode oneWrite.instrSet oneWrite.inCondBlock 0xEE8C0FB9 = .ok (.mcrA32 0))
      ∧ (turns on [.env (.aarch64WriteSreEl2 1)]).schedule = .env (.aarch64WriteSreEl2 1) :: []
      ∧ (turns on [.contextSync, .pe]).schedule = .contextSync :: [.pe] :=
  ⟨⟨.inr rfl, .inl rfl, by decide, by decide, by decide⟩, rfl, rfl⟩

theorem witness_PlacedWordRunsNext :
    State.launchPremise (turns on [.contextSync]) = true ∧ decodeTableWord 32 0xEE9C0FB9 = some (.mrcA32 0)
      ∧ decodeTableWord 32 0x0FB9EE8C = some (.mcrT32 0) := by decide

theorem inv_oneWrite : Inv oneWrite := ⟨by decide, by decide, by decide, by decide, by decide, by decide⟩

theorem witness_EveryStepKeepsInv : Inv oneWrite ∧ ∃ t, step oneWrite = .next t :=
  ⟨inv_oneWrite, exists_next (by decide)⟩

/-- A step of the PE, and one of the environment, from a state where SRE is known to read 1. -/
theorem witness_SreStaysOne :
    SreIsOne (on.withFetchWord 32 0xEE9C0FB9) ∧ (∃ t, step (on.withFetchWord 32 0xEE9C0FB9) = .next t)
      ∧ (∀ r rest, (on.withFetchWord 32 0xEE9C0FB9).schedule ≠ .env (.warmReset r) :: rest)
      ∧ SreIsOne (turns on [.env (.distributorWritesDS true)])
      ∧ ∃ t, step (turns on [.env (.distributorWritesDS true)]) = .next t :=
  ⟨rfl, exists_next (by decide), fun _ _ h => (by cases h), rfl, exists_next (by decide)⟩

theorem witness_SreIsOneIsReadAsOne : SreIsOne on ∧ ∃ t, exec (.mrcA32 14) on = .next t :=
  ⟨rfl, exists_next (by decide)⟩

end Sys2Proof.Tests
end

/-! ## What a completed access gives and leaves, field by field

The rules for SRE and Enable (R12, R28 to R30): one lemma for what a completed read puts in `R[t]`, one for the state a
completed write leaves, then each field's bit as a read finds it and its cell as a write leaves it. -/

namespace Sys2Proof.Machine

/-! ### The two directions of a completed access -/

/-- R82: the register operand of a completed read receives the read view. -/
theorem exec_read_reg {i : Instr} {s t : State} (hi : i.dir = .read) (h : exec i s = .next t) :
    t.regs[i.rt] = s.readView := by
  obtain ⟨-, ⟨-, rfl⟩ | ⟨hw, -⟩⟩ := exec_cases h
  · simp
  · simp [hi] at hw

/-- R83, R35: the next state of a completed write is the updated one. -/
theorem exec_write_next {i : Instr} {s t : State} (hi : i.dir = .write) (h : exec i s = .next t) :
    t = State.completed { s.applyWrite (s.regs[i.rt]) with window := s.view :: s.window } := by
  obtain ⟨-, ⟨hr, -⟩ | ⟨-, -, ht⟩⟩ := exec_cases h
  · simp [hi] at hr
  · exact ht

theorem exec_write_params {i : Instr} {s t : State} (hi : i.dir = .write) (h : exec i s = .next t) :
    t.params = s.params := by
  rw [exec_write_next hi h]; rfl

theorem exec_write_inputs {i : Instr} {s t : State} (hi : i.dir = .write) (h : exec i s = .next t) :
    t.inputs = s.inputs := by
  rw [exec_write_next hi h]; rfl

theorem exec_write_hsre {i : Instr} {s t : State} (hi : i.dir = .write) (h : exec i s = .next t) :
    t.hsre = s.hsre.write s.params s.inputs s.regs[i.rt] := by
  rw [exec_write_next hi h]; rfl

/-! ### SRE (R28 to R30) -/

theorem Hsre.write_sre (p : Params) (e : Inputs) (h : Hsre) (v : Word) :
    (h.write p e v).sre = h.sre.store (!sreRaoWi p && !sreRazWi p e) (.known v[0]) := rfl

/-- A write ignores the bit where SRE is RAO/WI or RAZ/WI. -/
theorem Hsre.write_sre_of_hardwired {p : Params} {e : Inputs} (hw : sreRaoWi p = true ∨ sreRazWi p e = true)
    (h : Hsre) (v : Word) : (h.write p e v).sre = h.sre := by
  rw [Hsre.write_sre]
  obtain hrao | hraz := hw
  · simp [hrao]
  · simp [hraz]

/-- Where SRE is RAO/WI or RAZ/WI, a bit `b` that parameters and inputs alone fix it to read as is what a completed
read returns, and a completed write leaves both that bit and the stored one. -/
theorem exec_sre_of_hardwired {i : Instr} {s t : State} {b : Bool}
    (hw : sreRaoWi s.params = true ∨ sreRazWi s.params s.inputs = true)
    (hb : ∀ u : State, u.params = s.params → u.inputs = s.inputs → u.sreRead = b) (h : exec i s = .next t) :
    (i.dir = .read → (t.regs[i.rt])[0] = b)
      ∧ (i.dir = .write → t.hsre.sre = s.hsre.sre ∧ t.readView[0] = b) := by
  refine ⟨fun hi => ?_, fun hi => ⟨?_, ?_⟩⟩
  · rw [exec_read_reg hi h, State.readView_sre, hb s rfl rfl]
  · rw [exec_write_hsre hi h, Hsre.write_sre_of_hardwired hw]
  · rw [State.readView_sre, hb t (exec_write_params hi h) (exec_write_inputs hi h)]

/-- R29 and R30 at once: what a completed access finds and leaves of SRE while it is RAZ/WI. -/
theorem exec_sre_of_razWi {i : Instr} {s t : State} (hrao : s.params.gicSysregOnly = false)
    (hraz : sreRazWi s.params s.inputs = true) (h : exec i s = .next t) :
    (i.dir = .read → (t.regs[i.rt])[0] = false)
      ∧ (i.dir = .write → t.hsre.sre = s.hsre.sre ∧ t.readView[0] = false) :=
  exec_sre_of_hardwired (.inr hraz) (fun u hp he => by simp [sreRead_eq, sreRaoWi, hp, he, hrao, hraz]) h

/-! ### Enable (R12) -/

theorem Hsre.write_enable (p : Params) (e : Inputs) (h : Hsre) (v : Word) :
    (h.write p e v).enable = h.enable.store (enableExists p) (.known v[3]) := rfl

/-- The Enable bit as read, clause by clause (R12, R34). -/
theorem readView_enable (s : State) :
    s.readView[3] = if enableRaoWi s.params then true
      else s.hsre.enable.resolve (Config.drawView s.draws)[3] := by
  simp only [State.readView, View.word_enable, State.view, view]
  split <;> rfl

/-! ### The obligations -/

/-- Settles O31: RAO/WI comes before every other clause of the read view, and rests on a parameter alone. -/
theorem sysregOnlySreReadsOneIgnoresWrites : Obligations.SysregOnlySreReadsOneIgnoresWrites := by
  intro i s t hrao h
  exact exec_sre_of_hardwired (.inl hrao) (fun u hp _ => by simp [sreRead_eq, sreRaoWi, hp, hrao]) h

/-- Settles O32: the premises are R29's half of the RAZ/WI condition. -/
theorem sreIsRazWiUnderAArch64El3 : Obligations.SreIsRazWiUnderAArch64El3 := by
  intro i s t hrao h3 h64 hsre h
  exact exec_sre_of_razWi hrao (by simp [sreRazWi, h3, h64, hsre]) h

/-- Settles O33: the premises are R30's half of the RAZ/WI condition. -/
theorem sreIsRazWiUnderAArch32El3 : Obligations.SreIsRazWiUnderAArch32El3 := by
  intro i s t hrao h3 h32 hsre h
  exact exec_sre_of_razWi hrao (by simp [sreRazWi, h3, h32, hsre]) h

/-- Settles O37, by the branches of R12: RAO/WI, or a stored bit that is read where known and written always. -/
theorem enableIsRaoWiOrStored : Obligations.EnableIsRaoWiOrStored := by
  intro i s t h
  split
  next hrao =>
    have hrao : enableRaoWi s.params = true := hrao
    refine ⟨fun hi => ?_, fun hi => ⟨?_, ?_⟩⟩
    · rw [exec_read_reg hi h, readView_enable, if_pos hrao]
    · simp [exec_write_hsre hi h, Hsre.write_enable, enableExists, hrao]
    · rw [readView_enable, exec_write_params hi h, if_pos hrao]
  next hrao =>
    have hrao : enableRaoWi s.params = false := Bool.eq_false_iff.mpr hrao
    have hcell (hi : i.dir = .write) : t.hsre.enable = .known (s.regs[i.rt])[3] := by
      simp [exec_write_hsre hi h, Hsre.write_enable, enableExists, hrao]
    refine ⟨fun hi b hb => ?_, fun hi => ⟨hcell hi, ?_⟩⟩
    · simp [exec_read_reg hi h, readView_enable, hrao, hb]
    · simp [readView_enable, exec_write_params hi h, hrao, hcell hi]

end Sys2Proof.Machine

/-! ## The outcomes at EL0, EL1 and EL3 (R76, R77, R79)

With the register present the check is the current level's own; what it raises becomes the instruction's outcome by
`exec_raise`, and only what it raises does, by `exec_fault_cases`. -/

namespace Sys2Proof.Machine

/-! ### Only an access that is not allowed faults -/

theorem readAccess_fault_cases {rt : Reg} {s : State} {f : Fault} (h : readAccess rt s = .fault f) :
    ∃ x, s.check = .raise x ∧ takeException x { dir := .read, rt := rt } = .fault f := by
  cases hc : s.check with
  | allow => simp [readAccess_allow hc] at h
  | raise x => exact ⟨x, rfl, readAccess_raise hc ▸ h⟩

theorem writeAccess_fault_cases {rt : Reg} {s : State} {f : Fault} (h : writeAccess rt s = .fault f) :
    ∃ x, s.check = .raise x ∧ takeException x { dir := .write, rt := rt } = .fault f := by
  cases hc : s.check with
  | allow =>
    cases hw : s.writeUpdate (s.reg rt) with
    | none => simp [writeAccess_none hc hw] at h
    | some t => simp [writeAccess_some hc hw] at h
  | raise x => exact ⟨x, rfl, writeAccess_raise hc ▸ h⟩

theorem admittedT32_eq_fault {rt : Reg} {o : Host.Outcome State Fault Refusal} {f : Fault}
    (h : admittedT32 rt o = .fault f) : o = .fault f := by
  unfold admittedT32 at h
  split at h
  · cases h
  · exact h

/-- An instruction that faults, well-formed or not, takes the exception that the check raised for its access. -/
theorem exec_fault_cases {i : Instr} {s : State} {f : Fault} (h : exec i s = .fault f) :
    ∃ x, s.check = .raise x ∧ takeException x { dir := i.dir, rt := i.rt } = .fault f := by
  cases i with
  | mrcA32 rt => exact readAccess_fault_cases h
  | mcrA32 rt => exact writeAccess_fault_cases h
  | mrcT32 rt => exact readAccess_fault_cases (admittedT32_eq_fault h)
  | mcrT32 rt => exact writeAccess_fault_cases (admittedT32_eq_fault h)

theorem exec_ne_fault_of_allow {i : Instr} {s : State} (h : s.check = .allow) (f : Fault) : exec i s ≠ .fault f := by
  intro hf
  obtain ⟨x, hx, -⟩ := exec_fault_cases hf
  simp [h] at hx

/-! ### The check of a present register, level by level (R75) -/

section
variable {s : State} (hp : present s.params = true)
include hp

theorem check_of_el0 (h : s.inputs.el = .el0) : s.check = .raise .undefined := by
  simp [State.check, accessCheck, hp, h]

theorem check_of_el1 (h : s.inputs.el = .el1) : s.check = checkEL1 s.inputs := by
  simp [State.check, accessCheck, hp, h]

theorem check_of_el3 (h : s.inputs.el = .el3) :
    s.check = if s.inputs.el2Enabled then .allow else .raise .undefined := by
  cases h2 : s.inputs.el2Enabled <;> simp [State.check, accessCheck, checkEL3, hp, h, h2]

/-- R77: an EL1 access never completes, and its outcome is the first of the three whose condition holds. -/
theorem exec_of_el1 {i : Instr} (hi : i.WellFormed) (h : s.inputs.el = .el1) :
    exec i s =
      if s.inputs.el2Enabled && !s.inputs.el2IsAArch32 && s.inputs.hstrEl2T12 then
        .fault (.trapToEL2AArch64 0x03 { dir := i.dir, rt := i.rt })
      else if s.inputs.el2Enabled && s.inputs.el2IsAArch32 && s.inputs.hstrT12 then
        .fault (.hypTrap 0x03 { dir := i.dir, rt := i.rt })
      else .fault (.undefined { dir := i.dir, rt := i.rt }) := by
  have hc : s.check = checkEL1 s.inputs := check_of_el1 hp h
  unfold checkEL1 at hc
  split at hc
  next h64 => rw [exec_raise hi hc, if_pos h64]; rfl
  next h64 =>
    split at hc
    next h32 => rw [exec_raise hi hc, if_neg h64, if_pos h32]; rfl
    next h32 => rw [exec_raise hi hc, if_neg h64, if_neg h32]; rfl

end

/-! ### The obligation -/

/-- Settles O10, level by level: what the check raises is the outcome, and where it allows there is no exception. -/
theorem outcomesAtEl0El1AndEl3 : Obligations.OutcomesAtEl0El1AndEl3 := by
  intro i s hi hp e a
  refine ⟨fun h0 => exec_raise hi (check_of_el0 hp h0), exec_of_el1 hp hi, fun h3 h2 => ?_, fun h3 h2 => ?_⟩
  · exact exec_raise hi ((check_of_el3 hp h3).trans (if_neg (Bool.eq_false_iff.mp h2)))
  · have hc : s.check = .allow := (check_of_el3 hp h3).trans (if_pos h2)
    exact ⟨hc, exec_ne_fault_of_allow hc⟩

end Sys2Proof.Machine

/-! ## When an access traps (R87 to R89)

A well-formed access ends in an exception exactly when the check raises it. Only the checks at EL1 and EL2 raise traps,
so each trap's condition is presence, the level, and one lemma about that level's check. -/

namespace Sys2Proof.Machine

/-! ### The outcome is an exception exactly when the check raises it -/

theorem takeException_eq_fault (x : Exc) (a : Access) : ∃ f, takeException x a = .fault f := by
  cases x <;> exact ⟨_, rfl⟩

theorem exec_eq_takeException {i : Instr} {s : State} {x : Exc} (hi : i.WellFormed) :
    exec i s = takeException x { dir := i.dir, rt := i.rt } ↔ s.check = .raise x := by
  refine ⟨fun h => ?_, exec_raise hi⟩
  obtain ⟨f, hf⟩ := takeException_eq_fault x { dir := i.dir, rt := i.rt }
  obtain ⟨y, hy, hyf⟩ := exec_fault_cases (h.trans hf)
  obtain ⟨rfl, -⟩ := takeException_inj.mp (hyf.trans hf.symm)
  exact hy

/-! ### The traps of the check at EL1 -/

/-- R87, within EL1. -/
theorem checkEL1_eq_trapToEL2AArch64 {e : Inputs} :
    checkEL1 e = .raise (.trapToEL2AArch64 trapNumber) ↔
      e.el2Enabled = true ∧ e.el2IsAArch32 = false ∧ e.hstrEl2T12 = true := by
  unfold checkEL1
  split
  next h => simpa [and_assoc] using h
  next h => split <;> simpa using h

/-- R88, within EL1: the trap of R87, tested first, needs an EL2 that is not using AArch32. -/
theorem checkEL1_eq_hypTrap {e : Inputs} :
    checkEL1 e = .raise (.hypTrap trapNumber) ↔
      e.el2Enabled = true ∧ e.el2IsAArch32 = true ∧ e.hstrT12 = true := by
  unfold checkEL1
  cases e.el2IsAArch32 with
  | true => simp
  | false => split <;> simp

theorem checkEL1_ne_trapToEL3AArch64 (e : Inputs) (n : BitVec 6) :
    checkEL1 e ≠ .raise (.trapToEL3AArch64 n) := by
  unfold checkEL1
  split
  · simp
  · split <;> simp

/-! ### The check at EL2 -/

/-- R78 reduced as in R80: the IMPLEMENTATION_DEFINED Boolean drops out. -/
theorem checkEL2_eq (p : Params) (e : Inputs) (d : Bool) :
    checkEL2 p e d =
      if el3Forbids p e then
        if e.halted && e.edscrSdd then .raise .undefined else .raise (.trapToEL3AArch64 trapNumber)
      else if msreEnable p e d then .allow
      else .raise .undefined := by
  unfold checkEL2
  cases el3Forbids p e with
  | false => cases msreEnable p e d <;> simp
  | true => cases e.halted <;> cases e.edscrSdd <;> simp

theorem el3Forbids_eq_true {p : Params} {e : Inputs} :
    el3Forbids p e = true ↔ p.haveEL3 = true ∧ e.el3IsAArch32 = false ∧ e.iccSreEl3Enable = false := by
  simp [el3Forbids, and_assoc]

/-- R89, within EL2. -/
theorem checkEL2_eq_trapToEL3AArch64 {p : Params} {e : Inputs} {d : Bool} :
    checkEL2 p e d = .raise (.trapToEL3AArch64 trapNumber) ↔
      el3Forbids p e = true ∧ ¬(e.halted = true ∧ e.edscrSdd = true) := by
  rw [checkEL2_eq, ← Bool.and_eq_true]
  cases el3Forbids p e with
  | false => cases msreEnable p e d <;> simp
  | true => cases e.halted && e.edscrSdd <;> simp

/-- The only trap of the check at EL2 is the one to an EL3 using AArch64. -/
theorem checkEL2_raise_cases {p : Params} {e : Inputs} {d : Bool} {x : Exc} (h : checkEL2 p e d = .raise x) :
    x = .undefined ∨ x = .trapToEL3AArch64 trapNumber := by
  rw [checkEL2_eq] at h
  split at h
  · split at h
    · cases h; exact .inl rfl
    · cases h; exact .inr rfl
  · split at h
    · cases h
    · cases h; exact .inl rfl

/-- R86 case 5 under an EL3 using AArch32: `ICC_MSRE.Enable` 0 makes an EL2 access `Undefined`. -/
theorem checkEL2_of_el3AArch32 {p : Params} {e : Inputs} (d : Bool) (h3 : p.haveEL3 = true)
    (h32 : e.el3IsAArch32 = true) (hen : e.iccMsreEnable = false) : checkEL2 p e d = .raise .undefined := by
  simp [checkEL2_eq, el3Forbids, msreEnable, h3, h32, hen]

/-! ### The check of a state (R75) -/

theorem check_of_absent {s : State} (hp : present s.params = false) : s.check = .raise .undefined := by
  simp [State.check, accessCheck, hp]

theorem check_of_el2 {s : State} (hp : present s.params = true) (h : s.inputs.el = .el2) :
    s.check = checkEL2 s.params s.inputs (Config.drawMsreEnable s.draws) := by
  simp [State.check, accessCheck, hp, h]

/-- A trap is raised for a present register, by the check at EL1 or the check at EL2. -/
theorem check_eq_trap {s : State} {x : Exc} (hx : x ≠ .undefined) :
    s.check = .raise x ↔
      present s.params = true
        ∧ ((s.inputs.el = .el1 ∧ checkEL1 s.inputs = .raise x)
          ∨ (s.inputs.el = .el2 ∧ checkEL2 s.params s.inputs (Config.drawMsreEnable s.draws) = .raise x)) := by
  cases hp : present s.params with
  | false => simp [check_of_absent hp, hx.symm]
  | true =>
    cases he : s.inputs.el with
    | el0 => simp [check_of_el0 hp he, hx.symm]
    | el1 => simp [check_of_el1 hp he]
    | el2 => simp [check_of_el2 hp he]
    | el3 =>
      rw [check_of_el3 hp he]
      split <;> simp [hx.symm]

/-- A trap that the check at EL2 never raises comes from EL1. -/
theorem check_eq_trap_of_el1 {s : State} {x : Exc} (hx : x ≠ .undefined) (h3 : x ≠ .trapToEL3AArch64 trapNumber) :
    s.check = .raise x ↔
      present s.params = true ∧ s.inputs.el = .el1 ∧ checkEL1 s.inputs = .raise x := by
  have hEL2 : checkEL2 s.params s.inputs (Config.drawMsreEnable s.draws) ≠ .raise x :=
    fun h => (checkEL2_raise_cases h).elim hx h3
  simp [check_eq_trap hx, hEL2]

/-- An EL2 access under an EL3 using AArch32 with `ICC_MSRE.Enable` 0, the register being present or not. -/
theorem check_of_el2_el3AArch32 {s : State} (h : s.inputs.el = .el2) (h3 : s.params.haveEL3 = true)
    (h32 : s.inputs.el3IsAArch32 = true) (hen : s.inputs.iccMsreEnable = false) : s.check = .raise .undefined := by
  cases hp : present s.params with
  | false => exact check_of_absent hp
  | true => exact (check_of_el2 hp h).trans (checkEL2_of_el3AArch32 _ h3 h32 hen)

/-! ### The obligations -/

/-- Settles O15: of the two levels whose check raises traps, only EL1 raises this one, and there R87 is the test. -/
theorem trapToEl2ExactlyWhen : Obligations.TrapToEl2ExactlyWhen := by
  intro i s hi
  refine ⟨(exec_eq_takeException (x := .trapToEL2AArch64 trapNumber) hi).trans ?_, rfl⟩
  rw [check_eq_trap_of_el1 (by decide) (by decide), checkEL1_eq_trapToEL2AArch64]

/-- Settles O16: as for the trap to an EL2 using AArch64, with R88 for the test at EL1. -/
theorem hypTrapExactlyWhen : Obligations.HypTrapExactlyWhen := by
  intro i s hi
  refine ⟨(exec_eq_takeException (x := .hypTrap trapNumber) hi).trans ?_, rfl⟩
  rw [check_eq_trap_of_el1 (by decide) (by decide), checkEL1_eq_hypTrap]

/-- Settles O17: EL1 never raises this trap, and at EL2 it is R89; under an EL3 using AArch32 the check goes on to
`ICC_MSRE.Enable`. -/
theorem trapToEl3ExactlyWhen : Obligations.TrapToEl3ExactlyWhen := by
  intro i s hi
  refine ⟨(exec_eq_takeException (x := .trapToEL3AArch64 trapNumber) hi).trans ?_, rfl, fun h h3 h32 hen => ?_⟩
  · simp only [check_eq_trap (x := .trapToEL3AArch64 trapNumber) (by decide), checkEL1_ne_trapToEL3AArch64,
      checkEL2_eq_trapToEL3AArch64, el3Forbids_eq_true, and_false, false_or, and_assoc]
  · exact exec_raise hi (check_of_el2_el3AArch32 h h3 h32 hen)

end Sys2Proof.Machine

/-! ## The decoder and the encoder (R64 to R73)

A T32 number has its fields where an A32 word has them, so one layout serves both sets. What a decoder says is one lemma
per branch, by the fields of the number; from these follows when it reads an instruction at all. -/

namespace Sys2Proof

/-! ### The two layouts -/

/-- R67, R68: each field is found where it was placed. -/
@[simp] theorem Fields.ofA32_toA32 (f : Fields) : Fields.ofA32 f.toA32 = f := by
  simp (disch := decide) only [Fields.ofA32, Fields.toA32, BitVec.extractLsb'_cast, BitVec.extractLsb'_eq_self,
    BitVec.extractLsb'_append_eq_of_add_le, BitVec.extractLsb'_append_eq_of_le, Nat.reduceSub]

/-- R67, R69: each field is found where it was placed. -/
@[simp] theorem Fields.ofT32_halfwords (f : Fields) : Fields.ofT32 f.firstT32 f.secondT32 = f := by
  simp (disch := decide) only [Fields.ofT32, Fields.firstT32, Fields.secondT32, BitVec.extractLsb'_cast,
    BitVec.extractLsb'_eq_self, BitVec.extractLsb'_append_eq_of_add_le, BitVec.extractLsb'_append_eq_of_le,
    Nat.reduceSub]

/-- The fields of a word leave out none of its bits. -/
@[simp] theorem Fields.toA32_ofA32 (w : Word) : (Fields.ofA32 w).toA32 = w := by
  simp (disch := decide) only [Fields.ofA32, Fields.toA32, BitVec.extractLsb'_append_extractLsb'_eq_extractLsb']
  exact BitVec.extractLsb'_eq_self

theorem Fields.ofA32_eq_iff {w : Word} {f : Fields} : Fields.ofA32 w = f ↔ w = f.toA32 :=
  ⟨fun h => by rw [← h, Fields.toA32_ofA32], fun h => by rw [h, Fields.ofA32_toA32]⟩

theorem extractLsb'_extractLsb' {n : Nat} (x : BitVec n) (b len a c : Nat) (h : a + c ≤ len) :
    (x.extractLsb' b len).extractLsb' a c = x.extractLsb' (b + a) c := by
  ext i hi
  simp [show a + i < len by omega, Nat.add_assoc]

/-- R69: a T32 number has its fields where an A32 word has them. -/
theorem Fields.ofT32_extractLsb' (w : Word) :
    Fields.ofT32 (w.extractLsb' 16 16) (w.extractLsb' 0 16) = Fields.ofA32 w := by
  simp (disch := decide) only [Fields.ofT32, Fields.ofA32, extractLsb'_extractLsb', Nat.reduceAdd]

theorem Fields.toT32_eq_toA32 (f : Fields) : f.toT32 = f.toA32 := by
  rw [← Fields.ofA32_eq_iff, ← Fields.ofT32_extractLsb', Fields.toT32, BitVec.extractLsb'_cast,
    BitVec.extractLsb'_cast, BitVec.extractLsb'_append_eq_left, BitVec.extractLsb'_append_eq_right,
    Fields.ofT32_halfwords]

/-! ### The operand -/

@[simp] theorem Reg.toBits_toNat (t : Reg) : t.toBits.toNat = t.val := by
  simp [Reg.toBits]; omega

theorem Reg.ofBits_eq_some {b : BitVec 4} {t : Reg} : Reg.ofBits b = some t ↔ b = t.toBits := by
  simp only [Reg.ofBits, ← BitVec.toNat_inj, Reg.toBits_toNat]
  split
  · simp [Fin.ext_iff]
  · simp; omega

theorem Reg.ofBits_eq_none {b : BitVec 4} : Reg.ofBits b = none ↔ b = 15 := by
  simp only [Reg.ofBits, ← BitVec.toNat_inj]
  split <;> simp <;> omega

@[simp] theorem Reg.ofBits_toBits (t : Reg) : Reg.ofBits t.toBits = some t := Reg.ofBits_eq_some.mpr rfl

/-- R71: A32 admits every general register. -/
theorem Instr.wellFormed_of_a32 {i : Instr} (h : i.set = .a32) : i.WellFormed := by
  cases i with
  | mrcA32 | mcrA32 => rfl
  | mrcT32 | mcrT32 => cases h

/-- R71: T32 admits every general register but 13. -/
theorem Instr.wellFormed_iff_of_t32 {i : Instr} (h : i.set = .t32) : i.WellFormed ↔ i.rt ≠ 13 := by
  cases i with
  | mrcA32 | mcrA32 => cases h
  | mrcT32 | mcrT32 => exact bne_iff_ne

/-! ### The fields of an access -/

theorem Fields.namesIccHsre_iff {f : Fields} :
    f.namesIccHsre = true ↔ f.op = 0b1110 ∧ f.one = 1 ∧ f.loc = SysRegLoc.iccHsre := by
  simp [Fields.namesIccHsre, and_assoc]

/-- The constant bits and the five values fix every field but the condition, the direction bit and the operand. -/
theorem Fields.eq_access_of_names {f : Fields} (h : f.namesIccHsre = true) :
    ∃ dir, f = { Fields.access dir 0 with cond := f.cond, rt := f.rt } := by
  obtain ⟨hop, hone, hloc⟩ := Fields.namesIccHsre_iff.mp h
  obtain ⟨cond, op, opc1, l, crn, rt, coproc, opc2, one, crm⟩ := f
  simp only [Fields.loc, SysRegLoc.iccHsre, SysRegLoc.mk.injEq] at hloc
  obtain ⟨hcoproc, hopc1, hcrn, hcrm, hopc2⟩ := hloc
  have hl : ∀ l : BitVec 1, l = 1 ∨ l = 0 := by decide
  obtain rfl | rfl := hl l
  · exact ⟨.read, by simp_all [Fields.access, SysRegLoc.iccHsre]⟩
  · exact ⟨.write, by simp_all [Fields.access, SysRegLoc.iccHsre]⟩

theorem Fields.eq_access_of_always {f : Fields} {t : Reg} (h : f.namesIccHsre = true) (hc : f.cond = 0b1110#4)
    (ht : f.rt = t.toBits) : ∃ dir, f = Fields.access dir t := by
  obtain ⟨dir, hf⟩ := Fields.eq_access_of_names h
  rw [hc, ht] at hf
  exact ⟨dir, hf⟩

/-- The encoding of an instruction of either set, in the one layout of R68. -/
theorem encode_eq (i : Instr) : encode i = (Fields.access i.dir i.rt).toA32 := by
  unfold encode
  cases i.set with
  | a32 => rfl
  | t32 => exact Fields.toT32_eq_toA32 _

/-! ### What the A32 decoder says -/

section
variable {w : Word}

theorem decodeA32_of_not_names (h : (Fields.ofA32 w).namesIccHsre = false) :
    decodeA32 w = .error .notIccHsre := by
  simp [decodeA32, h]

theorem decodeA32_of_cond_15 (h : (Fields.ofA32 w).cond = 0b1111#4) : decodeA32 w = .error .notIccHsre := by
  simp [decodeA32, h]

theorem decodeA32_of_conditional (h : (Fields.ofA32 w).namesIccHsre = true) (hc : (Fields.ofA32 w).cond ≠ 0b1110#4)
    (hc' : (Fields.ofA32 w).cond ≠ 0b1111#4) : decodeA32 w = .error .conditional := by
  simp [decodeA32, h, hc, hc']

theorem decodeA32_of_rt_15 (h : (Fields.ofA32 w).namesIccHsre = true) (hc : (Fields.ofA32 w).cond = 0b1110#4)
    (ht : (Fields.ofA32 w).rt = 15#4) : decodeA32 w = .error (.rtNotAdmitted 15) := by
  simp [decodeA32, h, hc, ht, Reg.ofBits]

theorem decodeA32_of_access {i : Instr} (hs : i.set = .a32) (h : Fields.ofA32 w = Fields.access i.dir i.rt) :
    decodeA32 w = .ok i := by
  cases i with
  | mrcA32 | mcrA32 => simp [decodeA32, h, Fields.access, Fields.namesIccHsre, Fields.loc, Instr.dir, Instr.rt]
  | mrcT32 | mcrT32 => cases hs

/-- R68, R71 to R73: what an A32 word must hold for the decoder to read an instruction from it. -/
theorem decodeA32_eq_ok {i : Instr} :
    decodeA32 w = .ok i ↔ i.set = .a32 ∧ Fields.ofA32 w = Fields.access i.dir i.rt := by
  refine ⟨fun h => ?_, fun ⟨hs, hf⟩ => decodeA32_of_access hs hf⟩
  by_cases hn : (Fields.ofA32 w).namesIccHsre = true
  case neg => simp [decodeA32_of_not_names (Bool.eq_false_iff.mpr hn)] at h
  by_cases hc' : (Fields.ofA32 w).cond = 0b1111#4
  case pos => simp [decodeA32_of_cond_15 hc'] at h
  by_cases hc : (Fields.ofA32 w).cond = 0b1110#4
  case neg => simp [decodeA32_of_conditional hn hc hc'] at h
  cases ht : Reg.ofBits (Fields.ofA32 w).rt with
  | none => simp [decodeA32_of_rt_15 hn hc (Reg.ofBits_eq_none.mp ht)] at h
  | some t =>
    obtain ⟨dir, hf⟩ := Fields.eq_access_of_always hn hc (Reg.ofBits_eq_some.mp ht)
    cases dir with
    | read => cases (decodeA32_of_access (i := .mrcA32 t) rfl hf).symm.trans h; exact ⟨rfl, hf⟩
    | write => cases (decodeA32_of_access (i := .mcrA32 t) rfl hf).symm.trans h; exact ⟨rfl, hf⟩

end

/-! ### What the T32 decoder says -/

section
variable {b : Bool} {x y : BitVec 16}

theorem decodeT32_of_not_names (h : (Fields.ofT32 x y).namesIccHsre = false) :
    decodeT32 b x y = .error .notIccHsre := by
  simp [decodeT32, h]

theorem decodeT32_of_cond (h : (Fields.ofT32 x y).cond ≠ 0b1110#4) : decodeT32 b x y = .error .notIccHsre := by
  simp [decodeT32, h]

theorem decodeT32_of_inBlock (h : (Fields.ofT32 x y).namesIccHsre = true) (hc : (Fields.ofT32 x y).cond = 0b1110#4) :
    decodeT32 true x y = .error .conditional := by
  simp [decodeT32, h, hc]

theorem decodeT32_of_rt_15_or_13 (h : (Fields.ofT32 x y).namesIccHsre = true)
    (hc : (Fields.ofT32 x y).cond = 0b1110#4) {r : BitVec 4} (ht : (Fields.ofT32 x y).rt = r)
    (hr : r = 15#4 ∨ r = 13#4) : decodeT32 false x y = .error (.rtNotAdmitted r) := by
  obtain rfl | rfl := hr
  · simp [decodeT32, h, hc, ht, Reg.ofBits]
  · simp [decodeT32, h, hc, ht, Reg.ofBits]

theorem decodeT32_of_access {i : Instr} (hs : i.set = .t32) (hwf : i.WellFormed)
    (h : Fields.ofT32 x y = Fields.access i.dir i.rt) : decodeT32 false x y = .ok i := by
  have ht : i.rt ≠ 13 := (Instr.wellFormed_iff_of_t32 hs).mp hwf
  cases i with
  | mrcA32 | mcrA32 => cases hs
  | mrcT32 t | mcrT32 t =>
    have ht : t ≠ 13 := ht
    simp [decodeT32, h, Fields.access, Fields.namesIccHsre, Fields.loc, Instr.dir, Instr.rt, ht]

/-- R69, R71 to R73: what two halfwords must hold for the decoder to read an instruction from them. -/
theorem decodeT32_eq_ok {i : Instr} :
    decodeT32 b x y = .ok i ↔
      i.set = .t32 ∧ i.WellFormed ∧ b = false ∧ Fields.ofT32 x y = Fields.access i.dir i.rt := by
  refine ⟨fun h => ?_, fun ⟨hs, hwf, hb, hf⟩ => hb ▸ decodeT32_of_access hs hwf hf⟩
  by_cases hn : (Fields.ofT32 x y).namesIccHsre = true
  case neg => simp [decodeT32_of_not_names (Bool.eq_false_iff.mpr hn)] at h
  by_cases hc : (Fields.ofT32 x y).cond = 0b1110#4
  case neg => simp [decodeT32_of_cond hc] at h
  cases b with
  | true => simp [decodeT32_of_inBlock hn hc] at h
  | false =>
    cases hr : Reg.ofBits (Fields.ofT32 x y).rt with
    | none => simp [decodeT32_of_rt_15_or_13 hn hc (Reg.ofBits_eq_none.mp hr)] at h
    | some t =>
      have hr : (Fields.ofT32 x y).rt = t.toBits := Reg.ofBits_eq_some.mp hr
      by_cases ht : t = 13
      case pos => simp [decodeT32_of_rt_15_or_13 hn hc (hr.trans (congrArg Reg.toBits ht)) (.inr rfl)] at h
      obtain ⟨dir, hf⟩ := Fields.eq_access_of_always hn hc hr
      have hwf : (Instr.mrcT32 t).WellFormed := (Instr.wellFormed_iff_of_t32 rfl).mpr ht
      cases dir with
      | read => cases (decodeT32_of_access (i := .mrcT32 t) rfl hwf hf).symm.trans h; exact ⟨rfl, hwf, rfl, hf⟩
      | write => cases (decodeT32_of_access (i := .mcrT32 t) rfl hwf hf).symm.trans h; exact ⟨rfl, hwf, rfl, hf⟩

end

/-! ### The decoder inverts the encoder -/

/-- R64, R68 to R73: the decoder reads an instruction from its encoding, and from nothing else. -/
theorem decode_eq_ok {set : InstrSet} {inBlock : Bool} {w : Word} {i : Instr} :
    decode set inBlock w = .ok i ↔
      w = encode i ∧ i.WellFormed ∧ i.set = set ∧ (set = .t32 → inBlock = false) := by
  rw [encode_eq, ← Fields.ofA32_eq_iff]
  cases set with
  | a32 =>
    refine decodeA32_eq_ok.trans ⟨?_, ?_⟩
    · rintro ⟨hs, hf⟩
      exact ⟨hf, Instr.wellFormed_of_a32 hs, hs, by simp⟩
    · rintro ⟨hf, -, hs, -⟩
      exact ⟨hs, hf⟩
  | t32 =>
    refine decodeT32_eq_ok.trans ?_
    rw [Fields.ofT32_extractLsb']
    constructor
    · rintro ⟨hs, hwf, hb, hf⟩
      exact ⟨hf, hwf, hs, fun _ => hb⟩
    · rintro ⟨hf, hwf, hs, hb⟩
      exact ⟨hs, hwf, hb rfl, hf⟩

/-! ### The masks of spec/opcode_table.json -/

theorem cond_of_and_mask {w : Word} (h : w &&& 0xF0000000 = 0xF0000000) : (Fields.ofA32 w).cond = 0b1111#4 := by
  have hc := congrArg (BitVec.extractLsb' 28 4) h
  have hm : BitVec.extractLsb' 28 4 (0xF0000000 : Word) = BitVec.allOnes 4 := by decide
  rwa [BitVec.extractLsb'_and, hm, BitVec.and_allOnes] at hc

/-- R68: a word with the constant bits and the five values matches an A32 row, whatever its condition and operand. -/
theorem and_mask_of_names {w : Word} (h : (Fields.ofA32 w).namesIccHsre = true) :
    w &&& 0x0FFF0FFF = 0x0E9C0FB9 ∨ w &&& 0x0FFF0FFF = 0x0E8C0FB9 := by
  obtain ⟨dir, hf⟩ := Fields.eq_access_of_names h
  rw [Fields.ofA32_eq_iff] at hf
  generalize (Fields.ofA32 w).cond = c, (Fields.ofA32 w).rt = r at hf
  subst hf
  cases dir <;> decide +revert +kernel

/-- R69: with the always condition, it matches a T32 row. -/
theorem and_mask_of_names_of_always {w : Word} (h : (Fields.ofA32 w).namesIccHsre = true)
    (hc : (Fields.ofA32 w).cond = 0b1110#4) :
    w &&& 0xFFFF0FFF = 0xEE9C0FB9 ∨ w &&& 0xFFFF0FFF = 0xEE8C0FB9 := by
  obtain ⟨dir, hf⟩ := Fields.eq_access_of_names h
  rw [Fields.ofA32_eq_iff, hc] at hf
  generalize (Fields.ofA32 w).rt = r at hf
  subst hf
  cases dir <;> decide +revert +kernel

/-! ### The obligations -/

/-- Settles O1: the decoder reads an instruction from its own encoding. -/
theorem decodeOfEncodeIsTheInstruction : Obligations.DecodeOfEncodeIsTheInstruction :=
  fun _ _ hwf hb => decode_eq_ok.mpr ⟨rfl, hwf, rfl, hb⟩

/-- Settles O2: the decoder reads an instruction from no number but its encoding. -/
theorem decodedNumberIsTheEncoding : Obligations.DecodedNumberIsTheEncoding :=
  fun _ _ _ _ h => decode_eq_ok.mp h

/-- Settles O3, by running the decoder on the eight numbers. -/
theorem specWordsDecodeAsTheSpecSays : Obligations.SpecWordsDecodeAsTheSpecSays := by
  unfold Obligations.SpecWordsDecodeAsTheSpecSays
  decide

/-- Settles O4: an A32 number that decodes has the fields of an access, and each refusal is a branch of the decoder. -/
theorem onlyTheAlwaysConditionIsAdmitted : Obligations.OnlyTheAlwaysConditionIsAdmitted := by
  refine ⟨fun b w i h => ?_, fun w i h => ?_, fun b f hn hc hc' => ?_, fun f hn hc => ?_⟩
  · obtain ⟨-, hf⟩ := decodeA32_eq_ok.mp h
    exact congrArg Fields.cond hf
  · obtain ⟨-, -, -, hb⟩ := decode_eq_ok.mp h
    exact absurd (hb rfl) (by decide)
  · apply decodeA32_of_conditional <;> rwa [Fields.ofA32_toA32]
  · apply decodeT32_of_inBlock <;> rwa [Fields.ofT32_halfwords]

/-- Settles O5: each clause is a branch of the decoder, on fields that differ from an access's in `Rt` alone. -/
theorem refusedAndAdmittedRt : Obligations.RefusedAndAdmittedRt := by
  intro dir r b f
  refine ⟨fun hr => ?_, ?_, fun hr => ?_, ?_⟩
  · apply decodeA32_of_rt_15 <;> rw [Fields.ofA32_toA32]
    · rfl
    · rfl
    · exact hr
  · rintro t rfl
    cases dir with
    | read => exact decodeA32_of_access (i := .mrcA32 t) rfl (Fields.ofA32_toA32 _)
    | write => exact decodeA32_of_access (i := .mcrA32 t) rfl (Fields.ofA32_toA32 _)
  · apply decodeT32_of_rt_15_or_13 (hr := hr) <;> rw [Fields.ofT32_halfwords] <;> rfl
  · rintro t rfl ht
    have hwf : (Instr.mrcT32 t).WellFormed := (Instr.wellFormed_iff_of_t32 rfl).mpr ht
    cases dir with
    | read => exact decodeT32_of_access (i := .mrcT32 t) rfl hwf (Fields.ofT32_halfwords _)
    | write => exact decodeT32_of_access (i := .mcrT32 t) rfl hwf (Fields.ofT32_halfwords _)

/-- Settles O6: a word whose fields name ICC_HSRE matches a row under its mask, so one that matches none does not. -/
theorem otherWordsAreNotIccHsre : Obligations.OtherWordsAreNotIccHsre := by
  refine ⟨fun b w hr hw => ?_, fun b w h => ?_, fun b w hr hw => ?_⟩
  · refine decodeA32_of_not_names (Bool.eq_false_iff.mpr fun hn => ?_)
    exact (and_mask_of_names hn).elim hr hw
  · exact decodeA32_of_cond_15 (cond_of_and_mask h)
  · cases hn : (Fields.ofA32 w).namesIccHsre with
    | false => exact decodeT32_of_not_names (by rwa [Fields.ofT32_extractLsb'])
    | true =>
      refine decodeT32_of_cond fun hc => ?_
      rw [Fields.ofT32_extractLsb'] at hc
      exact (and_mask_of_names_of_always hn hc).elim hr hw

/-- Settles O7: both layouts give the fields back. -/
theorem operandsArePlacedUnchanged : Obligations.OperandsArePlacedUnchanged :=
  fun f => ⟨f.ofA32_toA32, f.ofT32_halfwords⟩

/-- Settles O8: the line's fields are the access's; with `<opc2>` left out they hold 0 there and name no ICC_HSRE. -/
theorem assemblerLineOfIccHsre : Obligations.AssemblerLineOfIccHsre := by
  intro i q h1 h2
  cases i with
  | mrcA32 | mcrA32 => exact ⟨rfl, _, rfl, decodeA32_of_not_names (by rw [Fields.ofA32_toA32]; rfl)⟩
  | mrcT32 | mcrT32 =>
    refine ⟨rfl, _, rfl, decodeT32_of_not_names ?_⟩
    rw [Fields.ofT32_extractLsb', Fields.toT32_eq_toA32, Fields.ofA32_toA32]
    rfl

end Sys2Proof

/-! ## The access check as a whole (R74 to R81, R84, R86)

Where the check raises `Undefined`, level by level; what it can raise at all; and what it does not read. -/

namespace Sys2Proof.Machine

open Sys2Proof.Safety

/-! ### The outcomes of the check at one level -/

theorem checkEL1_raise_cases {e : Inputs} {x : Exc} (h : checkEL1 e = .raise x) :
    x = .trapToEL2AArch64 trapNumber ∨ x = .hypTrap trapNumber ∨ x = .undefined := by
  unfold checkEL1 at h
  split at h
  · cases h; exact .inl rfl
  · split at h
    · cases h; exact .inr (.inl rfl)
    · cases h; exact .inr (.inr rfl)

/-- R86, within EL1. -/
theorem checkEL1_eq_undefined {e : Inputs} :
    checkEL1 e = .raise .undefined ↔
      e.el2Enabled = false ∨ (e.el2IsAArch32 = false ∧ e.hstrEl2T12 = false)
        ∨ (e.el2IsAArch32 = true ∧ e.hstrT12 = false) := by
  unfold checkEL1
  cases e.el2Enabled with
  | false => simp
  | true =>
    cases e.el2IsAArch32 with
    | false => cases e.hstrEl2T12 <;> simp
    | true => cases e.hstrT12 <;> simp

/-- R86, within EL2. -/
theorem checkEL2_eq_undefined {p : Params} {e : Inputs} {d : Bool} :
    checkEL2 p e d = .raise .undefined ↔
      (el3Forbids p e = true ∧ e.halted = true ∧ e.edscrSdd = true)
        ∨ (el3Forbids p e = false ∧ msreEnable p e d = false) := by
  rw [checkEL2_eq, ← Bool.and_eq_true e.halted]
  cases el3Forbids p e with
  | false => cases msreEnable p e d <;> simp
  | true => cases e.halted && e.edscrSdd <;> simp

/-- R80: the IMPLEMENTATION_DEFINED Boolean is not among what the reduced check reads. -/
theorem checkEL2_impdefEl3TrapPrioritySdd (p : Params) (e : Inputs) (d b : Bool) :
    checkEL2 { p with impdefEl3TrapPrioritySdd := b } e d = checkEL2 p e d := by
  rw [checkEL2_eq, checkEL2_eq]
  rfl

/-- R91, within EL2: being halted turns the trap to EL3 into `Undefined` where SDD is 1. -/
theorem checkEL2_halted (p : Params) (e : Inputs) (d : Bool) :
    checkEL2 p e d =
      if e.halted && e.edscrSdd && (checkEL2 p { e with halted := false } d == .raise (.trapToEL3AArch64 trapNumber))
      then .raise .undefined
      else checkEL2 p { e with halted := false } d := by
  have hf : el3Forbids p { e with halted := false } = el3Forbids p e := rfl
  have hm : msreEnable p { e with halted := false } d = msreEnable p e d := rfl
  simp only [checkEL2_eq, hf, hm]
  cases el3Forbids p e with
  | false => cases msreEnable p e d <;> simp
  | true => cases e.halted && e.edscrSdd <;> simp

/-! ### The check of a state -/

/-- R90: whatever is raised is `Undefined` or carries the one number. -/
theorem check_raise_cases {s : State} {x : Exc} (h : s.check = .raise x) :
    x = .undefined ∨ x = .trapToEL2AArch64 trapNumber ∨ x = .hypTrap trapNumber
      ∨ x = .trapToEL3AArch64 trapNumber := by
  by_cases hx : x = .undefined
  · exact .inl hx
  obtain ⟨-, ⟨-, h1⟩ | ⟨-, h2⟩⟩ := (check_eq_trap hx).mp h
  · obtain rfl | rfl | rfl := checkEL1_raise_cases h1 <;> simp
  · obtain rfl | rfl := checkEL2_raise_cases h2 <;> simp

/-- R86: the level's own condition, where the register is present. -/
theorem check_eq_undefined {s : State} :
    s.check = .raise .undefined ↔
      present s.params = false ∨ s.inputs.el = .el0
        ∨ (s.inputs.el = .el1 ∧ checkEL1 s.inputs = .raise .undefined)
        ∨ (s.inputs.el = .el2 ∧ checkEL2 s.params s.inputs (Config.drawMsreEnable s.draws) = .raise .undefined)
        ∨ (s.inputs.el = .el3 ∧ s.inputs.el2Enabled = false) := by
  cases hp : present s.params with
  | false => simp [check_of_absent hp]
  | true =>
    cases he : s.inputs.el with
    | el0 => simp [check_of_el0 hp he]
    | el1 => simp [check_of_el1 hp he]
    | el2 => simp [check_of_el2 hp he]
    | el3 => simp [check_of_el3 hp he]

theorem takeException_access {x : Exc} {a : Access} {f : Fault} (h : takeException x a = .fault f) :
    f.access = a := by
  cases x <;> cases h <;> rfl

/-- The check reads no general register. -/
theorem check_regs (s : State) (regs : Vector Word 15) : State.check { s with regs := regs } = s.check := rfl

/-! ### The obligations -/

/-- Settles O9, level by level: within a level the booleans that the check tests single out the row. -/
theorem accessCheckIsTheTable : Obligations.AccessCheckIsTheTable := by
  intro p e d
  have hpr : (p.el2AArch32Capable && p.featGICv3 && (p.haveEL2 || p.haveEL3)) = present p := rfl
  have ha : (p.haveEL3 && !e.el3IsAArch32 && !e.iccSreEl3Enable) = el3Forbids p e := rfl
  simp only [checkTable, hpr, ha, accessCheck]
  cases present p with
  | false => simp
  | true =>
    cases e.el with
    | el0 => simp
    | el1 =>
      unfold checkEL1
      cases e.el2Enabled with
      | false => simp
      | true =>
        cases e.el2IsAArch32 with
        | false => cases e.hstrEl2T12 <;> simp [trapNumber]
        | true => cases e.hstrT12 <;> simp [trapNumber]
    | el2 =>
      rw [checkEL2_eq]
      cases el3Forbids p e with
      | false => cases msreEnable p e d <;> simp
      | true => cases e.halted && e.edscrSdd <;> simp [trapNumber]
    | el3 => cases h2 : e.el2Enabled <;> simp [checkEL3, h2]

/-- Settles O11, with the check at EL2 reduced as in R80. -/
theorem priorityBooleanDecidesNothing : Obligations.PriorityBooleanDecidesNothing := by
  intro p e d b
  constructor
  · unfold accessCheck
    rw [checkEL2_impdefEl3TrapPrioritySdd]
    rfl
  · rw [checkEL2_eq]
    cases msreEnable p e d <;> rfl

/-- Settles O12: only the check at EL2 reads whether the PE is halted. -/
theorem debugStateOnlyReplacesTheEl3Trap : Obligations.DebugStateOnlyReplacesTheEl3Trap := by
  intro p e d
  unfold accessCheck
  cases present p with
  | false => simp
  | true =>
    cases e.el with
    | el0 => simp
    | el1 =>
      refine (if_neg fun hc => checkEL1_ne_trapToEL3AArch64 e 0x03 ?_).symm
      exact eq_of_beq (Bool.and_eq_true_iff.mp hc).2
    | el2 => exact checkEL2_halted p e d
    | el3 => cases h2 : e.el2Enabled <;> simp [checkEL3, h2]

/-- Settles O13: none of the replaced fields is among those that the check reads. -/
theorem checkDoesNotReadTheRegister : Obligations.CheckDoesNotReadTheRegister := by
  intro s h dib dfb ds sre3 sreM regs
  rfl

/-- Settles O14: presence, then the level's own condition. -/
theorem undefinedExactlyInTheSixCases : Obligations.UndefinedExactlyInTheSixCases := by
  intro i s hi p e pr a
  refine (exec_eq_takeException (x := .undefined) hi).trans ?_
  rw [check_eq_undefined, checkEL1_eq_undefined, checkEL2_eq_undefined, and_or_left (a := s.inputs.el = .el2), or_assoc]
  rfl

/-- Settles O18: a fault is an exception that the check raised. -/
theorem exceptionRecordsTheAccess : Obligations.ExceptionRecordsTheAccess := by
  intro i s f h
  obtain ⟨x, hx, hf⟩ := exec_fault_cases h
  refine ⟨takeException_access hf, fun n hn => ?_⟩
  obtain rfl | rfl | rfl | rfl := check_raise_cases hx
  · cases hf; cases hn
  all_goals cases hf; cases hn; rfl

/-- Settles O19: presence is tested first. -/
theorem absentRegisterIsUndefined : Obligations.AbsentRegisterIsUndefined :=
  fun _ _ hi hp => exec_raise hi (check_of_absent hp)

/-- Settles O20: the premise of R49 leaves EL0, EL1 and EL3, each with EL2 not enabled. -/
theorem withoutEl2EveryAccessIsUndefined : Obligations.WithoutEl2EveryAccessIsUndefined := by
  intro i s hc h2 hi
  refine exec_raise hi (check_eq_undefined.mpr ?_)
  simp only [Consistent, h2, Bool.false_and, Bool.or_false, Bool.and_eq_true, Bool.not_eq_true'] at hc
  obtain ⟨⟨⟨hel, -⟩, -⟩, hen⟩ := hc
  rw [checkEL1_eq_undefined]
  cases he : s.inputs.el with
  | el0 | el1 | el3 => simp [hen]
  | el2 => simp [he] at hel

/-- Settles O21: either direction takes an exception exactly when the check raises it. -/
theorem readAndWriteTakeTheSameExceptions : Obligations.ReadAndWriteTakeTheSameExceptions := by
  intro s t regs x
  have hsame {i j : Instr} (hi : i.WellFormed) (hj : j.WellFormed) :
      exec i s = takeException x { dir := i.dir, rt := i.rt } ↔
        exec j { s with regs := regs } = takeException x { dir := j.dir, rt := j.rt } := by
    rw [exec_eq_takeException hi, exec_eq_takeException hj, check_regs s regs]
  refine ⟨hsame (i := .mrcA32 t) (j := .mcrA32 t) rfl rfl, fun ht => ?_⟩
  have hwf : (Instr.mrcT32 t).WellFormed := (Instr.wellFormed_iff_of_t32 rfl).mpr ht
  exact hsame (i := .mrcT32 t) (j := .mcrT32 t) hwf hwf

/-- Settles O22: only an access that the check allows answers a next state. -/
theorem completedAccessWasAllowed : Obligations.CompletedAccessWasAllowed :=
  fun _ _ _ h => check_eq_allow.mp (exec_cases h).1

end Sys2Proof.Machine

/-! ## The two instructions where the access is allowed (R82, R83)

The whole next state of a read and of a write, the write that is refused, and what each leaves unchanged. -/

namespace Sys2Proof.Machine

open Sys2Proof.Safety

/-! ### The write, field by field (R35) -/

theorem Hsre.write_dfb (p : Params) (e : Inputs) (h : Hsre) (v : Word) :
    (h.write p e v).dfb = h.dfb.store (dfbExists p) (.known v[1]) := rfl

theorem Hsre.write_dib (p : Params) (e : Inputs) (h : Hsre) (v : Word) :
    (h.write p e v).dib = h.dib.store (dibExists p) (.known v[2]) := rfl

/-- The stored cells after a write, in the words of R35: the two clauses under which SRE keeps its bit, and the one
under which Enable does, stand first. -/
theorem Hsre.write_eq (p : Params) (e : Inputs) (h : Hsre) (v : Word) :
    h.write p e v =
      { sre := if p.gicSysregOnly || sreRazWi p e then h.sre else .known v[0]
        dfb := if p.fiqBypassSupported && !p.haveEL3 then .known v[1] else h.dfb
        dib := if p.irqBypassSupported && !p.haveEL3 then .known v[2] else h.dib
        enable := if p.gicSysregOnly && p.enableRaoWiWithSre then h.enable else .known v[3]
        res := Vector.ofFn fun i =>
          if p.res0WritableMask[i] then .known (v.getLsbD (i.val + 4)) else h.res[i] } := by
  have hsre : (h.write p e v).sre = if p.gicSysregOnly || sreRazWi p e then h.sre else .known v[0] := by
    rw [Hsre.write_sre, sreRaoWi, ← Bool.not_or]
    cases p.gicSysregOnly || sreRazWi p e <;> rfl
  have henable : (h.write p e v).enable =
      if p.gicSysregOnly && p.enableRaoWiWithSre then h.enable else .known v[3] := by
    rw [Hsre.write_enable, enableExists, enableRaoWi]
    cases p.gicSysregOnly && p.enableRaoWiWithSre <;> rfl
  rw [← hsre, ← henable]
  rfl

theorem dfbExists_eq_false {p : Params} :
    dfbExists p = false ↔ p.fiqBypassSupported = false ∨ p.haveEL3 = true := by
  simp only [dfbExists, Bool.and_eq_false_iff, Bool.not_eq_false']

theorem dibExists_eq_false {p : Params} :
    dibExists p = false ↔ p.irqBypassSupported = false ∨ p.haveEL3 = true := by
  simp only [dibExists, Bool.and_eq_false_iff, Bool.not_eq_false']

/-- R16 to R18, R21 to R23: each of the three conditions of a read/write bypass bit is needed. -/
theorem aliasWritable_eq_false {p : Params} {e : Inputs} {b : Bool} :
    aliasWritable p e b = false ↔ p.haveEL3 = false ∨ e.gicdCtlrDs = false ∨ b = false := by
  simp only [aliasWritable, Bool.and_eq_false_iff]
  tauto

/-- A write that does not clear SRE, and the UNPREDICTABLE one (R27). -/
theorem writeUpdate_of_not_clears {s : State} {v : Word} (h : ¬ClearsSre s v) :
    s.writeUpdate v = some { s.applyWrite v with window := s.view :: s.window } :=
  writeUpdate_eq_some (mt (clears_iff s v).mp h)

theorem writeUpdate_eq_none_iff_clears {s : State} {v : Word} : s.writeUpdate v = none ↔ ClearsSre s v :=
  writeUpdate_eq_none.trans (clears_iff s v)

/-! ### The refusal of a write -/

theorem readAccess_ne_refused (rt : Reg) (s : State) (r : Refusal) : readAccess rt s ≠ .refused r := by
  cases hc : s.check with
  | allow => simp [readAccess_allow hc]
  | raise x => simp [readAccess_raise hc, takeException_ne_refused]

theorem writeAccess_eq_unpredictable {rt : Reg} {s : State} :
    writeAccess rt s = .refused .unpredictableSre1To0 ↔ MayAccess s ∧ ClearsSre s s.regs[rt] := by
  rw [← check_eq_allow, ← writeUpdate_eq_none_iff_clears]
  cases hc : s.check with
  | raise x => simp [writeAccess_raise hc, takeException_ne_refused]
  | allow =>
    cases hw : s.writeUpdate s.regs[rt] with
    | none => simp [writeAccess_none hc hw]
    | some t => simp [writeAccess_some hc hw]

/-- The refusal of a T32 form with `Rt` 13 is another one. -/
theorem admittedT32_eq_unpredictable {rt : Reg} {o : Host.Outcome State Fault Refusal}
    (h : admittedT32 rt o = .refused .unpredictableSre1To0) : o = .refused .unpredictableSre1To0 := by
  unfold admittedT32 at h
  split at h
  · cases h
  · exact h

/-! ### The next state of a read -/

theorem exec_read_next {i : Instr} {s t : State} (hi : i.dir = .read) (h : exec i s = .next t) :
    t = (s.setReg i.rt s.readView).completed := by
  obtain ⟨-, ⟨-, ht⟩ | ⟨hw, -⟩⟩ := exec_cases h
  · exact ht
  · simp [hi] at hw

/-! ### The obligations -/

/-- Settles O23: the check allows, and T32 adds a test of `Rt` alone. -/
theorem readCompletesWithTheReadView : Obligations.ReadCompletesWithTheReadView := by
  intro s t hm
  have h : readAccess t s = .next (s.setReg t s.readView).completed := readAccess_allow (check_eq_allow.mpr hm)
  exact ⟨h, fun ht => (admittedT32_of_ne ht _).trans h⟩

/-- Settles O24, with the write update in the words of R35. -/
theorem writeCompletesWithTheUpdatedFields : Obligations.WriteCompletesWithTheUpdatedFields := by
  intro s t hm hc p v after
  have h : writeAccess t s = .next after := by
    rw [writeAccess_some (check_eq_allow.mpr hm) (writeUpdate_of_not_clears hc), State.applyWrite, Hsre.write_eq]
    rfl
  exact ⟨h, fun ht => (admittedT32_of_ne ht _).trans h⟩

/-- Settles O25: of the two directions only the write can be refused, and T32 adds no such refusal. -/
theorem clearingSreIsRefused : Obligations.ClearingSreIsRefused := by
  intro s t
  have hread := readAccess_ne_refused t s .unpredictableSre1To0
  refine ⟨writeAccess_eq_unpredictable, fun ht => ?_, hread, mt admittedT32_eq_unpredictable hread⟩
  rw [← writeAccess_eq_unpredictable, ← admittedT32_of_ne ht (writeAccess t s)]
  rfl

/-- Settles O26: the test of `Rt` comes before the access. -/
theorem t32ThirteenStops : Obligations.T32ThirteenStops :=
  fun _ => ⟨rfl, rfl⟩

/-- Settles O27: a read sets `R[t]`, the program counter and the counter, and nothing else. -/
theorem readFrame : Obligations.ReadFrame := by
  intro i s t hi h
  obtain rfl := exec_read_next hi h
  refine ⟨fun r hr => ?_, rfl, rfl, rfl, rfl, rfl, rfl, rfl, rfl, rfl, fun a => rfl⟩
  exact Vector.getElem_set_ne i.rt.isLt r.isLt fun hv => hr (Fin.ext hv.symm)

/-- Settles O28: each cell keeps its content where the condition of its store is false. -/
theorem writeFrame : Obligations.WriteFrame := by
  intro i s t hi h
  obtain rfl := exec_write_next hi h
  refine ⟨fun r => rfl, fun hs => ?_, fun hd => ?_, fun hd => ?_, fun he => ?_, fun j hj => ?_, fun ha => ?_,
    fun ha => ?_, rfl, rfl, rfl, rfl, rfl, fun a => rfl⟩
  · exact Hsre.write_sre_of_hardwired hs _ _
  · exact if_neg (by simp [dfbExists_eq_false.mpr hd])
  · exact if_neg (by simp [dibExists_eq_false.mpr hd])
  · exact if_neg (by simp [enableExists, enableRaoWi, he])
  · exact (Hsre.write_res _ _ _ _ j).trans (if_neg (by simp [hj]))
  · exact if_neg (by simp [aliasWritable_eq_false.mpr ha])
  · exact if_neg (by simp [aliasWritable_eq_false.mpr ha])

/-- Settles O29, for either direction. -/
theorem completedAccessAdvancesThePc : Obligations.CompletedAccessAdvancesThePc := by
  intro i s t h
  obtain ⟨-, ⟨-, rfl⟩ | ⟨-, -, rfl⟩⟩ := exec_cases h <;> rfl

end Sys2Proof.Machine

/-! ## One step (R6, R27, R33, R38, R61, R110)

What each turn does, which cells each event stores to, and what no step changes. -/

namespace Sys2Proof.Machine

open Sys2Proof.Safety

/-! ### The turns -/

theorem fetch_of_broken_premise {s : State} (h : s.launchPremise = false) : fetch s = .error .launchPremise := by
  simp [fetch, h]

theorem fetch_eq_ok {s : State} {w : Word} {i : Instr} (hp : s.launchPremise = true)
    (hw : Program.lookup s.program s.pc.toNat = some w) (hi : decode s.instrSet s.inCondBlock w = .ok i) :
    fetch s = .ok i := by
  simp [fetch, hp, hw, hi]

theorem peTurn_of_fetch {s : State} {i : Instr} (h : fetch s = .ok i) : peTurn s = exec i s := by
  simp [peTurn, h]

theorem peTurn_of_fetch_error {s : State} {r : Refusal} (h : fetch s = .error r) : peTurn s = .refused r := by
  simp [peTurn, h]

theorem step_of_peTurn {s : State} (h : PeTurn s) : step s = peTurn { s with schedule := s.schedule.tail } := by
  unfold step
  obtain hs | hs := h
  · rw [hs]
    simp only [List.tail_nil]
    rw [← hs]
  · obtain ⟨rest, hs⟩ := List.head?_eq_some_iff.mp hs
    simp [hs]

theorem step_of_env {s : State} {a : EnvAction} {rest : List Turn} (h : s.schedule = .env a :: rest) :
    step s = envStep a { s with schedule := rest } := by
  simp [step, h]

theorem step_of_contextSync {s : State} {rest : List Turn} (h : s.schedule = .contextSync :: rest) :
    step s = .next (State.contextSync { s with schedule := rest }) := by
  simp [step, h]

/-! ### What a completed access keeps -/

section
variable {i : Instr} {s t : State} (h : exec i s = .next t)
include h

theorem exec_params : t.params = s.params := by
  obtain ⟨-, ⟨-, rfl⟩ | ⟨-, -, rfl⟩⟩ := exec_cases h <;> rfl

theorem exec_inputs : t.inputs = s.inputs := by
  obtain ⟨-, ⟨-, rfl⟩ | ⟨-, -, rfl⟩⟩ := exec_cases h <;> rfl

theorem exec_program : t.program = s.program := by
  obtain ⟨-, ⟨-, rfl⟩ | ⟨-, -, rfl⟩⟩ := exec_cases h <;> rfl

theorem exec_schedule : t.schedule = s.schedule := by
  obtain ⟨-, ⟨-, rfl⟩ | ⟨-, -, rfl⟩⟩ := exec_cases h <;> rfl

theorem exec_hsre_cases :
    t.hsre = s.hsre ∨ (i.dir = .write ∧ t.hsre = s.hsre.write s.params s.inputs s.regs[i.rt]) := by
  obtain ⟨-, ⟨-, rfl⟩ | ⟨hi, -, rfl⟩⟩ := exec_cases h
  · exact .inl rfl
  · exact .inr ⟨hi, rfl⟩

end

/-! ### What an action of the environment keeps -/

/-- R61, 00_scope.md section 4. -/
theorem envStep_program_params {a : EnvAction} {s t : State} (h : envStep a s = .next t) :
    t.program = s.program ∧ t.params = s.params := by
  cases a with
  | warmReset r => cases h; exact ⟨rfl, rfl⟩
  | mmioUse => obtain ⟨-, rfl⟩ | ⟨-, -, rfl⟩ := mmioUse_cases h <;> exact ⟨rfl, rfl⟩
  | el3WritesMsre v => obtain ⟨-, -, rfl⟩ := el3WritesMsre_cases h; exact ⟨rfl, rfl⟩
  | aarch64WriteSreEl2 v => obtain ⟨-, rfl⟩ := aarch64WriteSreEl2_cases h; exact ⟨rfl, rfl⟩
  | distributorWritesDS ds => cases h; exact ⟨rfl, rfl⟩
  | changeOfLevelOrDebug v => cases h; exact ⟨rfl, rfl⟩

/-- R58, R110: the three actions that store to cells of ICC_HSRE, and how. -/
theorem envStep_hsre_cases {a : EnvAction} {s t : State} (h : envStep a s = .next t) :
    t.hsre = s.hsre
      ∨ (∃ r, a = .warmReset r ∧ t.hsre = s.hsre.warmReset s.params)
      ∨ (a = .mmioUse ∧ s.params.sharedMmioSysreg = true ∧ s.sreRead = false
        ∧ t.hsre = s.hsre.havoc s.params s.params.mmioHavocIncludesSre)
      ∨ ∃ v, a = .aarch64WriteSreEl2 v ∧ t.hsre = s.hsre.write s.params s.inputs v := by
  cases a with
  | warmReset r => cases h; exact .inr (.inl ⟨r, rfl, rfl⟩)
  | mmioUse =>
    obtain ⟨-, rfl⟩ | ⟨hs, hr, rfl⟩ := mmioUse_cases h
    · exact .inl rfl
    · exact .inr (.inr (.inl ⟨rfl, hs, hr, rfl⟩))
  | el3WritesMsre v => obtain ⟨-, -, rfl⟩ := el3WritesMsre_cases h; exact .inl rfl
  | aarch64WriteSreEl2 v =>
    obtain ⟨-, rfl⟩ := aarch64WriteSreEl2_cases h
    exact .inr (.inr (.inr ⟨v, rfl, rfl⟩))
  | distributorWritesDS ds => cases h; exact .inl rfl
  | changeOfLevelOrDebug v => cases h; exact .inl rfl

/-! ### The cells that do not exist (R33) -/

/-- `h'` has in each absent cell of an implementation `p` what `h` has there. -/
def Hsre.SameAbsent (p : Params) (h h' : Hsre) : Prop :=
  (sreExists p = false → h'.sre = h.sre)
    ∧ (dfbExists p = false → h'.dfb = h.dfb)
    ∧ (dibExists p = false → h'.dib = h.dib)
    ∧ (enableExists p = false → h'.enable = h.enable)
    ∧ ∀ i : Fin 28, p.res0WritableMask[i] = false → h'.res[i] = h.res[i]

theorem Cell.store_of_false {c d : Cell} {b : Bool} (h : b = false) : c.store b d = c := by
  rw [h]; rfl

theorem Hsre.sameAbsent_refl (p : Params) (h : Hsre) : h.SameAbsent p h :=
  ⟨fun _ => rfl, fun _ => rfl, fun _ => rfl, fun _ => rfl, fun _ _ => rfl⟩

theorem Hsre.sameAbsent_write (p : Params) (e : Inputs) (h : Hsre) (v : Word) : h.SameAbsent p (h.write p e v) := by
  refine ⟨fun hs => Cell.store_of_false ?_, Cell.store_of_false, Cell.store_of_false, Cell.store_of_false,
    fun i hi => ?_⟩
  · simp [show (!sreRaoWi p) = false from hs]
  · exact (Hsre.write_res p e h v i).trans (Cell.store_of_false hi)

theorem Hsre.sameAbsent_warmReset (p : Params) (h : Hsre) : h.SameAbsent p (h.warmReset p) :=
  ⟨Cell.store_of_false, Cell.store_of_false, Cell.store_of_false, Cell.store_of_false,
    fun i hi => (Hsre.warmReset_res p h i).trans (Cell.store_of_false hi)⟩

theorem Hsre.sameAbsent_havoc (p : Params) (b : Bool) (h : Hsre) : h.SameAbsent p (h.havoc p b) :=
  ⟨fun hs => Cell.store_of_false (by simp [hs]), Cell.store_of_false, Cell.store_of_false, Cell.store_of_false,
    fun i hi => (Hsre.havoc_res p b h i).trans (Cell.store_of_false hi)⟩

/-- Whatever stores to a cell stores to an existing one. -/
theorem step_sameAbsent {s t : State} (h : step s = .next t) : s.hsre.SameAbsent s.params t.hsre := by
  obtain ⟨i, rest, -, -, he⟩ | ⟨a, rest, -, he⟩ | ⟨rest, -, rfl⟩ := step_cases h
  · obtain ht | ⟨-, ht⟩ := exec_hsre_cases he <;> rw [ht]
    · exact Hsre.sameAbsent_refl _ _
    · exact Hsre.sameAbsent_write _ _ _ _
  · obtain ht | ⟨r, -, ht⟩ | ⟨-, -, -, ht⟩ | ⟨v, -, ht⟩ := envStep_hsre_cases he <;> rw [ht]
    · exact Hsre.sameAbsent_refl _ _
    · exact Hsre.sameAbsent_warmReset _ _
    · exact Hsre.sameAbsent_havoc _ _ _
    · exact Hsre.sameAbsent_write _ _ _ _
  · exact Hsre.sameAbsent_refl _ _

theorem absentCellsZero_of_sameAbsent {s t : State} (hp : t.params = s.params)
    (hh : s.hsre.SameAbsent s.params t.hsre) (hz : AbsentCellsZero s) : AbsentCellsZero t := by
  obtain ⟨hsre, hdfb, hdib, hen, hres⟩ := hz
  obtain ⟨ksre, kdfb, kdib, ken, kres⟩ := hh
  unfold AbsentCellsZero
  rw [hp]
  exact ⟨fun h => (ksre h).trans (hsre h), fun h => (kdfb h).trans (hdfb h), fun h => (kdib h).trans (hdib h),
    fun h => (ken h).trans (hen h), fun i h => (kres i h).trans (hres i h)⟩

/-! ### SRE known to read 1 (R27 to R30) -/

theorem sreIsOne_iff {s : State} :
    SreIsOne s ↔ sreRaoWi s.params = true ∨ (sreRazWi s.params s.inputs = false ∧ s.hsre.sre = .known true) := by
  unfold SreIsOne State.view view
  cases sreRaoWi s.params <;> cases sreRazWi s.params s.inputs <;> simp

theorem sreRead_of_sreIsOne {s : State} (h : SreIsOne s) : s.sreRead = true := by
  have h : s.view.sre = .known true := h
  rw [State.sreRead, h]
  rfl

theorem sreRazWi_eq_true {p : Params} {e : Inputs} :
    sreRazWi p e = true ↔ p.haveEL3 = true
      ∧ ((e.el3IsAArch32 = false ∧ e.iccSreEl3Sre = false) ∨ (e.el3IsAArch32 = true ∧ e.iccMsreSre = false)) := by
  simp [sreRazWi]

/-- SRE does not become RAZ/WI while EL3 keeps its Execution state and clears neither SRE field. -/
theorem sreRazWi_eq_false_of_le {p : Params} {e e' : Inputs} (h32 : e'.el3IsAArch32 = e.el3IsAArch32)
    (h64 : e.iccSreEl3Sre = true → e'.iccSreEl3Sre = true) (hm : e.iccMsreSre = true → e'.iccMsreSre = true)
    (h : sreRazWi p e = false) : sreRazWi p e' = false := by
  have hle {a b : Bool} (hab : a = true → b = true) (hb : b = false) : a = false := by
    simpa [hb] using hab
  refine hle (fun hz => ?_) h
  rw [sreRazWi_eq_true, h32] at hz
  obtain ⟨h3, hz⟩ := hz
  exact sreRazWi_eq_true.mpr ⟨h3, hz.imp (And.imp_right (hle h64)) (And.imp_right (hle hm))⟩

/-- A step that stores to no cell takes SRE away only through EL3's inputs. -/
theorem sreIsOne_of_same_hsre {s t : State} (hs : SreIsOne s) (hp : t.params = s.params) (hh : t.hsre = s.hsre)
    (h32 : t.inputs.el3IsAArch32 = s.inputs.el3IsAArch32)
    (h64 : s.inputs.iccSreEl3Sre = true → t.inputs.iccSreEl3Sre = true)
    (hm : s.inputs.iccMsreSre = true → t.inputs.iccMsreSre = true) : SreIsOne t := by
  rw [sreIsOne_iff] at hs ⊢
  rw [hp, hh]
  exact hs.imp_right fun ⟨hz, hc⟩ => ⟨sreRazWi_eq_false_of_le h32 h64 hm hz, hc⟩

/-- A write that is not the UNPREDICTABLE one keeps SRE at 1. -/
theorem sreIsOne_applyWrite {s : State} {v : Word} (hs : SreIsOne s)
    (hn : ¬(s.sreRead = true ∧ (s.applyWrite v).sreRead = false)) : SreIsOne (s.applyWrite v) := by
  have hv : (s.applyWrite v).sreRead = true := by simpa [sreRead_of_sreIsOne hs] using hn
  rw [sreRead_applyWrite] at hv
  rw [sreIsOne_iff, State.applyWrite_params, State.applyWrite_inputs, State.applyWrite_hsre, Hsre.write_sre]
  cases hrao : sreRaoWi s.params with
  | true => exact .inl rfl
  | false =>
    cases hraz : sreRazWi s.params s.inputs with
    | true => simp [hrao, hraz] at hv
    | false => exact .inr ⟨rfl, by simpa [hrao, hraz] using hv⟩

theorem sreIsOne_exec {i : Instr} {s t : State} (hs : SreIsOne s) (h : exec i s = .next t) : SreIsOne t := by
  obtain ⟨-, ⟨-, rfl⟩ | ⟨-, hn, rfl⟩⟩ := exec_cases h
  · exact hs
  · exact sreIsOne_applyWrite hs hn

theorem clearsEl3Sre_eq_false {e : Inputs} {v : El3Values} :
    clearsEl3Sre e v = false ↔
      (e.iccMsreSre = true → v.iccMsreSre = true) ∧ (e.iccSreEl3Sre = true → v.iccSreEl3Sre = true) := by
  simp [clearsEl3Sre]

theorem sreIsOne_envStep {a : EnvAction} {s t : State} (hs : SreIsOne s) (h : envStep a s = .next t)
    (hr : ∀ r, a ≠ .warmReset r)
    (hl : ∀ v, a = .changeOfLevelOrDebug v → v.el3IsAArch32 = s.inputs.el3IsAArch32) : SreIsOne t := by
  cases a with
  | warmReset r => exact absurd rfl (hr r)
  | mmioUse =>
    obtain ⟨-, rfl⟩ | ⟨-, hr, -⟩ := mmioUse_cases h
    · exact hs
    · simp [sreRead_of_sreIsOne hs] at hr
  | el3WritesMsre v =>
    obtain ⟨-, hc, rfl⟩ := el3WritesMsre_cases h
    obtain ⟨hm, h64⟩ := clearsEl3Sre_eq_false.mp hc
    exact sreIsOne_of_same_hsre hs rfl rfl rfl h64 hm
  | aarch64WriteSreEl2 v =>
    obtain ⟨hn, rfl⟩ := aarch64WriteSreEl2_cases h
    exact sreIsOne_applyWrite hs hn
  | distributorWritesDS ds => cases h; exact hs
  | changeOfLevelOrDebug v => cases h; exact sreIsOne_of_same_hsre hs rfl rfl (hl v rfl) id id

/-! ### The obligations -/

/-- Settles O49, turn by turn: each action that stores to the register's cells is on the list, and of the instructions
only a write does, which the check allows at EL2 and EL3 alone. -/
theorem storedCellsChangeOnlyByTheNamedEvents : Obligations.StoredCellsChangeOnlyByTheNamedEvents := by
  intro s t h hne
  obtain ⟨i, rest, hpe, hf, he⟩ | ⟨a, rest, hs, he⟩ | ⟨rest, -, rfl⟩ := step_cases h
  · obtain ht | ⟨hw, -⟩ := exec_hsre_cases he
    · exact absurd ht hne
    · obtain ⟨-, hel⟩ := check_eq_allow.mp (exec_cases he).1
      have hturn : PeTurn s := hpe.imp And.left (by simp +contextual)
      exact .inl ⟨hturn, hel.imp And.left And.left, i, hf, hw⟩
  · obtain ht | ⟨r, rfl, -⟩ | ⟨rfl, hsh, hr, -⟩ | ⟨v, rfl, -⟩ := envStep_hsre_cases he
    · exact absurd ht hne
    · exact .inr (.inl ⟨r, rest, hs⟩)
    · exact .inr (.inr (.inl ⟨rest, hs, hsh, (State.readView_sre s).trans hr⟩))
    · exact .inr (.inr (.inr ⟨v, rest, hs⟩))
  · exact absurd rfl hne

/-- Settles O51, turn by turn. -/
theorem programAndParametersAreFixed : Obligations.ProgramAndParametersAreFixed := by
  intro s t h
  obtain ⟨i, rest, -, -, he⟩ | ⟨a, rest, -, he⟩ | ⟨rest, -, rfl⟩ := step_cases h
  · exact ⟨(exec_program he :), (exec_params he :)⟩
  · exact (envStep_program_params he :)
  · exact ⟨rfl, rfl⟩

/-- Settles O57: the program text and the absent cells both stay as they were. -/
theorem everyStepKeepsInv : Obligations.EveryStepKeepsInv := by
  intro s t ⟨hwf, hz⟩ h
  obtain ⟨hprog, hp⟩ := programAndParametersAreFixed s t h
  exact ⟨hprog ▸ hwf, absentCellsZero_of_sameAbsent hp (step_sameAbsent h) hz⟩

/-- Settles O59, turn by turn. -/
theorem sreStaysOne : Obligations.SreStaysOne := by
  intro s t hs h hr hl
  obtain ⟨i, rest, -, -, he⟩ | ⟨a, rest, ha, he⟩ | ⟨rest, -, rfl⟩ := step_cases h
  · exact sreIsOne_exec (s := { s with schedule := rest }) hs he
  · exact sreIsOne_envStep (s := { s with schedule := rest }) hs he (fun r hra => hr r rest (hra ▸ ha))
      fun v hva => hl v rest (hva ▸ ha)
  · exact hs

/-- Settles O50: a quiet schedule has no turn of the environment, and a read changes no cell. -/
theorem quietMachineChangesOnlyByAWrite : Obligations.QuietMachineChangesOnlyByAWrite := by
  intro s t hq h
  unfold Quiet at hq
  obtain ⟨i, rest, hpe, hf, he⟩ | ⟨a, rest, hs, -⟩ | ⟨rest, hs, rfl⟩ := step_cases h
  · refine ⟨?_, (exec_inputs he :), fun hne => ⟨i, hf, ?_⟩⟩
    · rw [Quiet, exec_schedule he]
      obtain ⟨-, rfl⟩ | hs := hpe
      · rfl
      · simpa [hs] using hq
    · cases hi : i.dir with
      | write => rfl
      | read =>
        obtain rfl := exec_read_next hi he
        simp at hne
  · simp [hs] at hq
  · exact ⟨by simpa [Quiet, hs] using hq, rfl, by simp⟩

/-- Settles O54: each clause makes the premise false, which the fetch tests first. -/
theorem brokenLaunchPremiseIsRefused : Obligations.BrokenLaunchPremiseIsRefused := by
  intro s hpe hb
  have hl : s.launchPremise = false := by
    unfold State.launchPremise launchPremise
    obtain ⟨hg, hz⟩ | ⟨hb, h3, hd⟩ | ⟨hb, h3, hd⟩ := hb
    · simp [hg, sreRazWi_eq_true.mpr hz]
    · simp [hb, h3, hd]
    · simp [hb, h3, hd]
  rw [step_of_peTurn hpe]
  exact peTurn_of_fetch_error (fetch_of_broken_premise hl)

/-- Settles O55, by the kind of turn. -/
theorem stepRunsTheDecodedInstruction : Obligations.StepRunsTheDecodedInstruction := by
  refine ⟨fun s w i hpe hp hw hi => ?_, fun s a rest => step_of_env, fun s rest => step_of_contextSync⟩
  rw [step_of_peTurn hpe]
  exact peTurn_of_fetch (fetch_eq_ok hp hw hi)

theorem decodeTableWord_eq_some {nbits w : Nat} {i : Instr} (h : decodeTableWord nbits w = some i) :
    decode (tablePlacement nbits w).1 false (tablePlacement nbits w).2 = .ok i := by
  unfold decodeTableWord at h
  split at h
  next j hj => cases h; exact hj
  next => cases h

/-- Settles O56: the fetch finds the number just placed. -/
theorem placedWordRunsNext : Obligations.PlacedWordRunsNext := by
  intro s nbits w i hp hi
  rw [step_of_peTurn (.inr rfl)]
  exact peTurn_of_fetch (fetch_eq_ok hp (Program.lookup_place_same _ _ _) (decodeTableWord_eq_some hi))

/-- Settles O58: each absent cell is 0 at reset, and the program text is empty. -/
theorem invAtReset : Obligations.InvAtReset := by
  have h (p : Params) (r : ResetValues) : Inv (State.resetOf p r) := by
    refine ⟨rfl, fun _ => rfl, fun _ => rfl, fun _ => rfl, fun he => ?_, fun i hi => ?_⟩
    · exact if_neg (Bool.eq_false_iff.mp he)
    · exact (Hsre.reset_res p i).trans (if_neg (Bool.eq_false_iff.mp hi))
  exact ⟨h _ _, h⟩

end Sys2Proof.Machine

/-! ## The fields, bit by bit (R10, R12 to R23, R34, R58, R59)

What a read finds in DFB, DIB and the reserved bits, beside SRE and Enable above, and what a write leaves there. -/

namespace Sys2Proof.Machine

open Sys2Proof.Safety

/-! ### The bits of the read view -/

/-- The DFB bit as read, clause by clause (R21 to R23, R34). -/
theorem readView_dfb (s : State) :
    s.readView[1] = if !s.params.fiqBypassSupported then true
      else if s.params.haveEL3 then s.msreDfb
      else s.hsre.dfb.resolve (Config.drawView s.draws)[1] := by
  simp only [State.readView, View.word_dfb, State.view, view]
  split
  · rfl
  · split <;> rfl

/-- The DIB bit as read, clause by clause (R16 to R18, R34). -/
theorem readView_dib (s : State) :
    s.readView[2] = if !s.params.irqBypassSupported then true
      else if s.params.haveEL3 then s.msreDib
      else s.hsre.dib.resolve (Config.drawView s.draws)[2] := by
  simp only [State.readView, View.word_dib, State.view, view]
  split
  · rfl
  · split <;> rfl

/-- A reserved bit as read (R10, R34). -/
theorem readView_res (s : State) (i : Fin 28) :
    s.readView.getLsbD (i.val + 4) = if s.params.res0WritableMask[i]
      then s.hsre.res[i].resolve ((Config.drawView s.draws).getLsbD (i.val + 4)) else false := by
  rw [State.readView, View.word_res, State.view, view_res]
  split <;> rfl

/-! ### The bits a write leaves -/

theorem exec_write_msreDib {i : Instr} {s t : State} (hi : i.dir = .write) (h : exec i s = .next t) :
    t.msreDib = if aliasWritable s.params s.inputs s.params.irqBypassSupported then (s.regs[i.rt])[2]
      else s.msreDib := by
  rw [exec_write_next hi h]; rfl

theorem exec_write_msreDfb {i : Instr} {s t : State} (hi : i.dir = .write) (h : exec i s = .next t) :
    t.msreDfb = if aliasWritable s.params s.inputs s.params.fiqBypassSupported then (s.regs[i.rt])[1]
      else s.msreDfb := by
  rw [exec_write_next hi h]; rfl

theorem exec_write_dib_of_absent {i : Instr} {s t : State} (hd : dibExists s.params = false) (hi : i.dir = .write)
    (h : exec i s = .next t) : t.hsre.dib = s.hsre.dib := by
  rw [exec_write_hsre hi h, Hsre.write_dib, Cell.store_of_false hd]

theorem exec_write_dfb_of_absent {i : Instr} {s t : State} (hd : dfbExists s.params = false) (hi : i.dir = .write)
    (h : exec i s = .next t) : t.hsre.dfb = s.hsre.dfb := by
  rw [exec_write_hsre hi h, Hsre.write_dfb, Cell.store_of_false hd]

/-- R16, R18: where DIB has no cell and a write does not reach `MSRE_DIB`, a bit `b` that parameters and `MSRE_DIB`
fix it to read as is what a completed read returns, and a completed write leaves it all as it is. -/
theorem exec_dib_of_readOnly {i : Instr} {s t : State} {b : Bool} (hd : dibExists s.params = false)
    (ha : aliasWritable s.params s.inputs s.params.irqBypassSupported = false)
    (hb : ∀ u : State, u.params = s.params → u.msreDib = s.msreDib → u.readView[2] = b) (h : exec i s = .next t) :
    (i.dir = .read → (t.regs[i.rt])[2] = b)
      ∧ (i.dir = .write → t.msreDib = s.msreDib ∧ t.hsre.dib = s.hsre.dib ∧ t.readView[2] = b) := by
  refine ⟨fun hi => by rw [exec_read_reg hi h, hb s rfl rfl], fun hi => ?_⟩
  have hm : t.msreDib = s.msreDib := by simp [exec_write_msreDib hi h, ha]
  exact ⟨hm, exec_write_dib_of_absent hd hi h, hb t (exec_write_params hi h) hm⟩

/-- R21, R23: as for DIB, with `MSRE_DFB`. -/
theorem exec_dfb_of_readOnly {i : Instr} {s t : State} {b : Bool} (hd : dfbExists s.params = false)
    (ha : aliasWritable s.params s.inputs s.params.fiqBypassSupported = false)
    (hb : ∀ u : State, u.params = s.params → u.msreDfb = s.msreDfb → u.readView[1] = b) (h : exec i s = .next t) :
    (i.dir = .read → (t.regs[i.rt])[1] = b)
      ∧ (i.dir = .write → t.msreDfb = s.msreDfb ∧ t.hsre.dfb = s.hsre.dfb ∧ t.readView[1] = b) := by
  refine ⟨fun hi => by rw [exec_read_reg hi h, hb s rfl rfl], fun hi => ?_⟩
  have hm : t.msreDfb = s.msreDfb := by simp [exec_write_msreDfb hi h, ha]
  exact ⟨hm, exec_write_dfb_of_absent hd hi h, hb t (exec_write_params hi h) hm⟩

/-! ### The values drawn for unknown cells -/

theorem Cell.resolve_eq_of_ne_unknown {c : Cell} (h : c ≠ .unknown) (d d' : Bool) : c.resolve d = c.resolve d' := by
  cases c with
  | unknown => exact absurd rfl h
  | known b => rfl

/-- R58: where no cell is unknown, the value read does not hang on what is drawn. -/
theorem View.word_eq_of_known {v : View} (h : View.Known v) (d d' : Word) : v.word d = v.word d' := by
  obtain ⟨hsre, hdfb, hdib, hen, hres⟩ := h
  simp only [View.word, Cell.resolve_eq_of_ne_unknown hsre d[0] d'[0], Cell.resolve_eq_of_ne_unknown hdfb d[1] d'[1],
    Cell.resolve_eq_of_ne_unknown hdib d[2] d'[2], Cell.resolve_eq_of_ne_unknown hen d[3] d'[3],
    fun i : Fin 28 => Cell.resolve_eq_of_ne_unknown (hres i) (d.getLsbD (i.val + 4)) (d'.getLsbD (i.val + 4))]

/-! ### The obligations -/

/-- Settles O30: one lemma for each bit. -/
theorem readViewBitByBit : Obligations.ReadViewBitByBit :=
  fun s => ⟨(State.readView_sre s).trans (sreRead_eq s), readView_dfb s, readView_dib s, readView_enable s,
    readView_res s⟩

/-- Settles O34: with EL3 neither bit has a cell, and with `GICD_CTLR.DS` 0 a write reaches neither bit of ICC_MSRE. -/
theorem bypassBitsAreReadOnlyAliases : Obligations.BypassBitsAreReadOnlyAliases := by
  intro i s t h3 hds h
  have ha (b : Bool) : aliasWritable s.params s.inputs b = false := aliasWritable_eq_false.mpr (.inr (.inl hds))
  refine ⟨fun hirq => ?_, fun hfiq => ?_⟩
  · exact exec_dib_of_readOnly (dibExists_eq_false.mpr (.inr h3)) (ha _)
      (fun u hp hm => by simp [readView_dib, hp, hm, hirq, h3]) h
  · exact exec_dfb_of_readOnly (dfbExists_eq_false.mpr (.inr h3)) (ha _)
      (fun u hp hm => by simp [readView_dfb, hp, hm, hfiq, h3]) h

/-- Settles O35: with EL3 the bits are ICC_MSRE's, and with `GICD_CTLR.DS` 1 a write reaches them. -/
theorem bypassBitsAreReadWriteAliases : Obligations.BypassBitsAreReadWriteAliases := by
  intro i s t h3 hds h
  have ha : aliasWritable s.params s.inputs true = true := by simp [aliasWritable, h3, hds]
  refine ⟨fun hirq => ⟨fun hi => ?_, fun hi => ⟨?_, ?_⟩⟩, fun hfiq => ⟨fun hi => ?_, fun hi => ⟨?_, ?_⟩⟩⟩
  · simp [exec_read_reg hi h, readView_dib, hirq, h3]
  · rw [exec_write_msreDib hi h, hirq, if_pos ha]
  · exact exec_write_dib_of_absent (dibExists_eq_false.mpr (.inr h3)) hi h
  · simp [exec_read_reg hi h, readView_dfb, hfiq, h3]
  · rw [exec_write_msreDfb hi h, hfiq, if_pos ha]
  · exact exec_write_dfb_of_absent (dfbExists_eq_false.mpr (.inr h3)) hi h

/-- Settles O36: without support neither bit has a cell, and no write reaches ICC_MSRE's. -/
theorem unsupportedBypassBitsReadOneIgnoreWrites : Obligations.UnsupportedBypassBitsReadOneIgnoreWrites := by
  intro i s t h
  refine ⟨fun hirq => ?_, fun hfiq => ?_⟩
  · exact exec_dib_of_readOnly (dibExists_eq_false.mpr (.inl hirq)) (aliasWritable_eq_false.mpr (.inr (.inr hirq)))
      (fun u hp _ => by simp [readView_dib, hp, hirq]) h
  · exact exec_dfb_of_readOnly (dfbExists_eq_false.mpr (.inl hfiq)) (aliasWritable_eq_false.mpr (.inr (.inr hfiq)))
      (fun u hp _ => by simp [readView_dfb, hp, hfiq]) h

/-- Settles O38, by the bit's place in the mask. -/
theorem reservedBits : Obligations.ReservedBits := by
  intro i s t j h
  have hcell (hi : i.dir = .write) : t.hsre.res[j] =
      s.hsre.res[j].store s.params.res0WritableMask[j] (.known ((s.regs[i.rt]).getLsbD (j.val + 4))) := by
    rw [exec_write_hsre hi h, Hsre.write_res]
  split
  next hm =>
    rw [hm] at hcell
    refine ⟨fun hi b hb => ?_, fun hi => ⟨hcell hi, ?_⟩⟩
    · rw [exec_read_reg hi h, readView_res, if_pos hm, hb, Cell.resolve_known]
    · rw [readView_res, exec_write_params hi h, if_pos hm, hcell hi, Cell.store_true, Cell.resolve_known]
  next hm =>
    refine ⟨fun hi => ?_, fun hi => ⟨(hcell hi).trans (if_neg hm), ?_⟩⟩
    · rw [exec_read_reg hi h, readView_res, if_neg hm]
    · rw [readView_res, exec_write_params hi h, if_neg hm]

/-- Settles O39: SRE reads 0 only where it is not RAO/WI, and there Enable is an ordinary stored bit (R12). -/
theorem enableActsAsOneWhileSreReadsZero : Obligations.EnableActsAsOneWhileSreReadsZero := by
  intro s h0
  have hrao : enableRaoWi s.params = false := by
    rw [State.readView_sre, sreRead_eq, sreRaoWi] at h0
    cases hg : s.params.gicSysregOnly with
    | false => simp [enableRaoWi, hg]
    | true => simp [hg] at h0
  have heff : effectiveEnable s.readView = true := by simp [effectiveEnable, h0]
  refine ⟨heff, by simp [Predicate.holdsOf, heff], fun b hb => ?_, fun i t hi h => ?_⟩
  · simp [readView_enable, hrao, hb]
  · simp [exec_write_hsre hi h, Hsre.write_enable, enableExists, hrao]

/-- Settles O40: a read changes nothing that the view is made of. -/
theorem twoReadsAgree : Obligations.TwoReadsAgree := by
  intro i j s t u hk hi hj h h'
  rw [exec_read_reg hj h', exec_read_reg hi h]
  obtain rfl := exec_read_next hi h
  exact View.word_eq_of_known hk _ _

/-- Settles O41: each cell that the read finds is the one that the write stored to. -/
theorem readAfterWriteSeesTheWrite : Obligations.ReadAfterWriteSeesTheWrite := by
  intro i j s t u hg h3 hirq hfiq hi hj h h' r v
  have hp := exec_write_params hi h
  have hh := exec_write_hsre hi h
  have hr : r = t.readView := exec_read_reg hj h'
  have hraz (e : Inputs) : sreRazWi s.params e = false := by simp [sreRazWi, h3]
  rw [hr]
  refine ⟨?_, ?_, ?_, ?_, fun k => ?_⟩
  · simp [State.readView_sre, sreRead_eq, hp, hh, Hsre.write_sre, sreRaoWi, hg, hraz, v]
  · simp [readView_dfb, hp, hh, Hsre.write_dfb, dfbExists, hfiq, h3, v]
  · simp [readView_dib, hp, hh, Hsre.write_dib, dibExists, hirq, h3, v]
  · simp [readView_enable, hp, hh, Hsre.write_enable, enableExists, enableRaoWi, hg, v]
  · rw [readView_res, hp, hh, Hsre.write_res]
    cases s.params.res0WritableMask[k] <;> rfl

/-- Settles O60: what a read puts in `R[t]` is the read view, whose bit 0 is SRE as read. -/
theorem sreIsOneIsReadAsOne : Obligations.SreIsOneIsReadAsOne := by
  intro i s t hs hi h
  rw [exec_read_reg hi h, State.readView_sre, sreRead_of_sreIsOne hs]

end Sys2Proof.Machine

/-! ## Reset, the environment's actions and the exported predicates (R32, R36 to R38, R50, R101, R102, R107, R110)

What a Warm reset leaves and how it reads, what the guarded actions answer, and when a predicate has which value. -/

namespace Sys2Proof.Machine

open Sys2Proof.Safety

/-! ### Reset -/

@[simp] theorem Cell.store_store (c d d' : Cell) (b : Bool) : (c.store b d).store b d' = c.store b d' := by
  cases b <;> rfl

/-- R102: what a Warm reset finds in the existing cells does not matter. -/
theorem Hsre.warmReset_havoc (p : Params) (h : Hsre) : (h.havoc p true).warmReset p = h.warmReset p := by
  simp [Hsre.warmReset, Hsre.havoc]

/-- The existing cells, and ICC_MSRE's bits under EL3, hold what a Warm reset leaves there (R50, R101). -/
structure AtReset (t : State) : Prop where
  sre : sreExists t.params = true → t.hsre.sre = .known false
  dfb : dfbExists t.params = true → t.hsre.dfb = .known false
  dib : dibExists t.params = true → t.hsre.dib = .known false
  enable : enableExists t.params = true → t.hsre.enable = .unknown
  res : ∀ i : Fin 28, t.params.res0WritableMask[i] = true → t.hsre.res[i] = .unknown
  msreDfb : t.params.haveEL3 = true → t.msreDfb = false
  msreDib : t.params.haveEL3 = true → t.msreDib = false

theorem atReset_warmReset (s : State) (r : ResetValues) : AtReset (s.warmReset r) where
  sre h := if_pos h
  dfb h := if_pos h
  dib h := if_pos h
  enable h := if_pos h
  res i h := (Hsre.warmReset_res _ _ i).trans (if_pos h)
  msreDfb h := if_pos h
  msreDib h := if_pos h

theorem atReset_resetOf (p : Params) (r : ResetValues) : AtReset (State.resetOf p r) where
  sre _ := rfl
  dfb _ := rfl
  dib _ := rfl
  enable h := if_pos h
  res i h := (Hsre.reset_res p i).trans (if_pos h)
  msreDfb _ := rfl
  msreDib _ := rfl

/-- R50: the read view of the cells that a Warm reset leaves, whatever the inputs. -/
theorem readView_of_atReset {t : State} (h : AtReset t) :
    t.readView[0] = t.params.gicSysregOnly
      ∧ t.readView[1] = !t.params.fiqBypassSupported
      ∧ t.readView[2] = !t.params.irqBypassSupported
      ∧ t.readView[3] = (if enableRaoWi t.params then true else (Config.drawView t.draws)[3])
      ∧ ∀ i : Fin 28, t.readView.getLsbD (i.val + 4)
          = (t.params.res0WritableMask[i] && (Config.drawView t.draws).getLsbD (i.val + 4)) := by
  refine ⟨?_, ?_, ?_, ?_, fun i => ?_⟩
  · rw [State.readView_sre, sreRead_eq, sreRaoWi]
    cases hg : t.params.gicSysregOnly with
    | true => rfl
    | false => simp [h.sre (by simp [sreExists, hg])]
  · rw [readView_dfb]
    cases hb : t.params.fiqBypassSupported with
    | false => rfl
    | true =>
      cases h3 : t.params.haveEL3 with
      | true => simp [h.msreDfb h3]
      | false => simp [h.dfb (by simp [dfbExists, hb, h3])]
  · rw [readView_dib]
    cases hb : t.params.irqBypassSupported with
    | false => rfl
    | true =>
      cases h3 : t.params.haveEL3 with
      | true => simp [h.msreDib h3]
      | false => simp [h.dib (by simp [dibExists, hb, h3])]
  · rw [readView_enable]
    cases he : enableRaoWi t.params with
    | true => rfl
    | false => simp [h.enable (by simp [enableExists, he])]
  · rw [readView_res]
    cases hm : t.params.res0WritableMask[i] with
    | false => rfl
    | true => rw [h.res i hm]; rfl

/-! ### The guarded actions of the environment -/

section
variable {s : State}

theorem mmioUse_of_not_shared (hs : s.params.sharedMmioSysreg = false) : mmioUse s = .next s := by
  simp [mmioUse, hs]

theorem mmioUse_of_sreRead (hs : s.params.sharedMmioSysreg = true) (hr : s.sreRead = true) :
    mmioUse s = .refused .actionNotEnabled := by
  simp [mmioUse, hs, hr]

theorem mmioUse_of_sre_zero (hs : s.params.sharedMmioSysreg = true) (hr : s.sreRead = false) :
    mmioUse s = .next s.mmioUsed := by
  simp [mmioUse, hs, hr]

variable {v : El3Values}

theorem clearsEl3Sre_eq_true {e : Inputs} :
    clearsEl3Sre e v = true ↔
      (e.iccMsreSre = true ∧ v.iccMsreSre = false) ∨ (e.iccSreEl3Sre = true ∧ v.iccSreEl3Sre = false) := by
  simp [clearsEl3Sre]

theorem el3WritesMsre_of_no_el3 (h3 : s.params.haveEL3 = false) :
    el3WritesMsre v s = .refused .actionNotEnabled := by
  simp [el3WritesMsre, h3]

theorem el3WritesMsre_of_clears (h3 : s.params.haveEL3 = true) (hc : clearsEl3Sre s.inputs v = true) :
    el3WritesMsre v s = .refused .environmentAssumption := by
  simp [el3WritesMsre, h3, hc]

theorem el3WritesMsre_of_not_clears (h3 : s.params.haveEL3 = true) (hc : clearsEl3Sre s.inputs v = false) :
    el3WritesMsre v s = .next (s.withEl3 v) := by
  simp [el3WritesMsre, h3, hc]

end

/-! ### The obligations about reset and the environment -/

/-- Settles O42: the right side is the Warm reset of the state, written out. -/
theorem warmResetStep : Obligations.WarmResetStep :=
  fun _ _ _ hs => step_of_env hs

/-- Settles O43: both states have their cells at the reset contents. -/
theorem readViewAfterWarmReset : Obligations.ReadViewAfterWarmReset := by
  rintro s t r (rfl | rfl)
  · exact readView_of_atReset (atReset_warmReset s r)
  · exact readView_of_atReset (atReset_resetOf s.params r)

/-- Settles O44: the two resets differ in the stored cells alone, where the second step overwrites the first. -/
theorem otherResetsGiveTheWarmResetState : Obligations.OtherResetsGiveTheWarmResetState := by
  intro s r
  unfold State.otherReset State.warmReset
  rw [Hsre.warmReset_havoc]

/-- Settles O45: an existing cell holds its reset content. -/
theorem storedCellsAtReset : Obligations.StoredCellsAtReset := by
  intro p r h
  refine ⟨rfl, rfl, rfl, fun he => if_pos (by simp [he]), fun i hi => ?_⟩
  exact (Hsre.reset_res p i).trans (if_pos hi)

/-- Settles O46, by the cases of R38. -/
theorem mmioUseMakesTheCellsUnknown : Obligations.MmioUseMakesTheCellsUnknown := by
  intro s
  rw [State.readView_sre]
  refine ⟨mmioUse_of_not_shared, mmioUse_of_sreRead, fun hs hr => ⟨s.mmioUsed, mmioUse_of_sre_zero hs hr, ?_⟩⟩
  refine ⟨fun h => if_pos h, fun h => if_pos h, fun h => if_pos h, fun i hi => ?_, rfl, rfl, rfl, rfl, rfl, rfl⟩
  exact (Hsre.havoc_res _ _ _ i).trans (if_pos hi)

/-- Settles O47, by the two guards of EL3's action. -/
theorem inputActionsChangeOnlyTheirInputs : Obligations.InputActionsChangeOnlyTheirInputs := by
  intro s
  refine ⟨fun ds => rfl, fun v => rfl, fun v => ⟨el3WritesMsre_of_no_el3, fun h3 hc => ?_, fun h3 hm h64 => ?_⟩⟩
  · exact el3WritesMsre_of_clears h3 (clearsEl3Sre_eq_true.mpr hc)
  · exact el3WritesMsre_of_not_clears h3 (clearsEl3Sre_eq_false.mpr ⟨hm, h64⟩)

/-- Settles O48: both names write through the same update. -/
theorem aArch64WriteIsAWriteOfTheSameStorage : Obligations.AArch64WriteIsAWriteOfTheSameStorage := by
  intro s v p
  have hsome (hc : ¬ClearsSre s v) : aarch64WriteSreEl2 v s =
      .next (State.drawn { s.applyWrite v with window := s.view :: s.window }) :=
    aarch64WriteSreEl2_some (writeUpdate_of_not_clears hc)
  have hnone (hc : ClearsSre s v) : aarch64WriteSreEl2 v s = .refused .unpredictableSre1To0 :=
    aarch64WriteSreEl2_none (writeUpdate_eq_none_iff_clears.mpr hc)
  refine ⟨⟨fun h => ?_, hnone⟩, fun hc => ?_, fun t hm hv => ⟨fun u hu => ?_, fun hr => ?_⟩⟩
  · by_contra hc
    cases (hsome hc).symm.trans h
  · refine (hsome hc).trans ?_
    rw [State.applyWrite, Hsre.write_eq]
    rfl
  · obtain ⟨-, hn, rfl⟩ := writeAccess_cases hu
    subst hv
    exact hsome (mt (clears_iff s _).mpr hn)
  · exact hnone (hv ▸ (writeAccess_eq_unpredictable.mp hr).2)

/-! ### The exported predicates -/

/-- Settles O52, by the value of bit 0. -/
theorem exportedPredicatesOfAValue : Obligations.ExportedPredicatesOfAValue := by
  intro v
  cases h0 : v[0] <;> simp [effectiveEnable, Predicate.holdsOf, h0]

/-- A predicate reads only the four low bits of the value, and so only what is drawn for these. -/
theorem Predicate.holdsOf_word_congr (q : Predicate) (v : View) {d d' : Word}
    (h : ∀ i < 4, d.getLsbD i = d'.getLsbD i) : q.holdsOf (v.word d) = q.holdsOf (v.word d') := by
  have h0 : d[0] = d'[0] := h 0 (by decide)
  have h1 : d[1] = d'[1] := h 1 (by decide)
  have h2 : d[2] = d'[2] := h 2 (by decide)
  have h3 : d[3] = d'[3] := h 3 (by decide)
  cases q <;> simp [Predicate.holdsOf, effectiveEnable, h0, h1, h2, h3]

/-- Sixteen draws cover all. -/
theorem Predicate.exists_draw_lt_16 (q : Predicate) (v : View) (d : Word) :
    ∃ n < 16, q.holdsOf (v.word (BitVec.ofNat 32 n)) = q.holdsOf (v.word d) := by
  refine ⟨d.toNat % 16, Nat.mod_lt _ (by decide), q.holdsOf_word_congr v fun i hi => ?_⟩
  have h16 : d.toNat % 16 = d.toNat % 2 ^ 4 := rfl
  rw [h16, BitVec.getLsbD_ofNat, Nat.testBit_mod_two_pow, BitVec.testBit_toNat]
  simp [hi, show i < 32 by omega]

/-- R107: a predicate may have its value for any view in the window, whatever is drawn. -/
theorem Predicate.mayBe_of_mem (q : Predicate) {s : State} {v : View} (h : v ∈ s.view :: s.window) (d : Word) :
    q.mayBe (q.holdsOf (v.word d)) s = true := by
  obtain ⟨n, hn, he⟩ := q.exists_draw_lt_16 v d
  exact List.any_eq_true.mpr ⟨v, h, List.any_eq_true.mpr ⟨n, List.mem_range.mpr hn, by simp [he]⟩⟩

/-- Settles O53: a write keeps the earlier view in the window, and the synchronisation empties it. -/
theorem predicatesAreOldOrNewUntilSynchronised : Obligations.PredicatesAreOldOrNewUntilSynchronised := by
  intro i s t hi h q d
  refine ⟨?_, q.mayBe_of_mem List.mem_cons_self d, fun b hb => ?_⟩
  · obtain rfl := exec_write_next hi h
    exact q.mayBe_of_mem (List.mem_cons_of_mem _ List.mem_cons_self) d
  · simp only [Predicate.mayBe, State.contextSync_window, List.any_cons, List.any_nil, Bool.or_false,
      List.any_eq_true] at hb
    obtain ⟨n, -, hn⟩ := hb
    exact ⟨_, eq_of_beq hn⟩

end Sys2Proof.Machine
